-- ==== Sys2Proof/Word.lean ====
section
/-! DEFINITION. The fixed widths of the hardware (rules R10, R45): one name per width, nothing else. -/

namespace Sys2Proof

/-- A 64-bit Block or MasterKey (R10 `BLOCK_W`, `KEY_W`). -/
abbrev Block := BitVec 64
/-- A 56-bit value `C ‖ D` of the key scheduler (R10 `CD_W`). -/
abbrev Pair56 := BitVec 56
/-- A 48-bit RoundSubkey, expanded half or key-mixed value (R10 `SUBKEY_W`). -/
abbrev Subkey := BitVec 48
/-- A 32-bit half-block (R10 `HALF_W`). -/
abbrev Half := BitVec 32
/-- A 28-bit half of the key scheduler's value (R10 `HALFKEY_W`). -/
abbrev KeyHalf := BitVec 28
/-- A 6-bit S-box input (R70, format `CHUNK6`). -/
abbrev Chunk := BitVec 6
/-- A 4-bit S-box output (R70, format `HALF32`, one nibble). -/
abbrev Nibble := BitVec 4
/-- The 5-bit sequencer value (R30, R72, format `SEQ`). -/
abbrev Phase := BitVec 5

end Sys2Proof
end

