-- ==== Sys2Proof/Syntax.lean ====
section
/-! DEFINITION. The operations of the hardware, one constructor per row of spec/opcode_table.json (47 rows, rule R73). -/

namespace Sys2Proof

/-- The two rotation amounts that ever occur (R114: "Only n = 1 and n = 2 ever occur"). -/
inductive Shift where
  | one
  | two
  deriving DecidableEq, Repr

/-- What `decode` of the host-side codec is given: text, or a non-negative integer (R94). -/
inductive CodecInput where
  /-- The characters of the text, first character first (R93). -/
  | text (chars : List Char)
  | integer (value : Nat)
  deriving DecidableEq, Repr

/-- What `decode` is asked for: a sequence of a stated width (R94), or the 64 bits of a Block or MasterKey (R97).
A width of 64 is read as a Block's: text of either must be exactly 16 characters (C4; log entry 12). -/
inductive CodecTarget where
  | width (bits : Nat)
  | block
  deriving DecidableEq, Repr

/-- The 47 operations. Function units, codec and pseudo-instructions carry their operands; the micro-operations
take theirs from the registers (and `idle` from the pins). -/
inductive Instr where
  -- Format CTRL: the host commands (R151 to R153).
  | reset
  /-- The operands are the levels of `block_in` and `key_in` at the edge (R152). -/
  | start (blockIn keyIn : Block)
  | nop
  -- Format SEQ: the micro-operations (R153 to R156).
  | idle
  | rnd0
  | rnd1
  | rnd2
  | rnd3
  | rnd4
  | rnd5
  | rnd6
  | rnd7
  | rnd8
  | rnd9
  | rnd10
  | rnd11
  | rnd12
  | rnd13
  | rnd14
  | rnd15
  | final
  -- Format WIRING: the permutation engine (R99, R103 to R108).
  /-- Table of 1-based source positions, input width, input vector (R99). -/
  | perm (table : List Nat) (win : Nat) (v : BitVec win)
  | ip (v : Block)
  | fp (v : Block)
  | pc1 (key : Block)
  | pc2 (cd : Pair56)
  | expand (r : Half)
  | pbox (s : Half)
  -- Format ROM: the S-boxes (R125).
  | sbox0 (x : Chunk)
  | sbox1 (x : Chunk)
  | sbox2 (x : Chunk)
  | sbox3 (x : Chunk)
  | sbox4 (x : Chunk)
  | sbox5 (x : Chunk)
  | sbox6 (x : Chunk)
  | sbox7 (x : Chunk)
  -- Format ROTATE (R114).
  | rotl28 (v : KeyHalf) (n : Shift)
  -- Format COMPOSITE (R111, R126, R122, R140, R138).
  | ks (key : Block)
  | sub (x : Subkey)
  | f (r : Half) (k : Subkey)
  | round (l r : Half) (k : Subkey)
  | encrypt (p key : Block)
  -- Format HOST: the codec (R94, R95, R97).
  | decode (x : CodecInput) (target : CodecTarget)
  | encode (bits : Nat) (v : BitVec bits)
  -- Format PSEUDO: the host script's pseudo-instructions (R92).
  | encryptScript (block key : Block)
  | wait
  | read
  deriving DecidableEq, Repr

/-- The formats of the opcode table (R67, R73). -/
inductive Format where
  | ctrl
  | seq
  | wiring
  | rom
  | rotate
  | composite
  | host
  | pseudo
  deriving DecidableEq, Repr

/-- The format of an operation's row (R73). -/
def Instr.format : Instr → Format
  | .reset | .start _ _ | .nop => .ctrl
  | .idle | .rnd0 | .rnd1 | .rnd2 | .rnd3 | .rnd4 | .rnd5 | .rnd6 | .rnd7 | .rnd8 | .rnd9 | .rnd10 | .rnd11 | .rnd12
  | .rnd13 | .rnd14 | .rnd15 | .final => .seq
  | .perm _ _ _ | .ip _ | .fp _ | .pc1 _ | .pc2 _ | .expand _ | .pbox _ => .wiring
  | .sbox0 _ | .sbox1 _ | .sbox2 _ | .sbox3 _ | .sbox4 _ | .sbox5 _ | .sbox6 _ | .sbox7 _ => .rom
  | .rotl28 _ _ => .rotate
  | .ks _ | .sub _ | .f _ _ | .round _ _ _ | .encrypt _ _ => .composite
  | .decode _ _ | .encode _ _ => .host
  | .encryptScript _ _ | .wait | .read => .pseudo

/-- Only host commands and micro-operations are selected by bits (R73). -/
def Format.selectedByBits : Format → Bool
  | .ctrl | .seq => true
  | .wiring | .rom | .rotate | .composite | .host | .pseudo => false

end Sys2Proof
end

