-- ==== Sys2Proof/Config.lean ====
section
/-! DEFINITION. The one parameter of the spec (R11, 93_implementation_defined.md U14): the shape of the record of constant tables. Its value is `Sys2Proof.Machine.tables`, in Machine/Tables.lean. With it stands what the check of that record reports. The spec leaves no value of an instruction open, so there is no free value here. -/

namespace Sys2Proof

/-- The record `Tables` of R11: six bit-permutation tables of 1-based source positions (R50, R109), the rotation
schedule (R74) and the eight S-boxes, `sbox[k][row][col]` (R82 to R89). -/
structure Config.Tables where
  ip    : List Nat
  fp    : List Nat
  pc1   : List Nat
  pc2   : List Nat
  e     : List Nat
  p     : List Nat
  shift : List Shift
  sbox  : List (List (List Nat))
  deriving DecidableEq, Repr

/-- Which permutation table an error names (R101, R171): one of the six of the record, or one given to `PERM` as an
operand, which has no name but its entries. -/
inductive TableId where
  | ip
  | fp
  | pc1
  | pc2
  | e
  | p
  | given (entries : List Nat)
  deriving DecidableEq, Repr

/-- `ConfigurationError(table, i)`: the table and the 1-based index of its first bad entry (R101, R171, R172). -/
structure ConfigurationError where
  table : TableId
  index : Nat
  deriving DecidableEq, Repr

end Sys2Proof
end

