-- ==== Sys2Proof/Machine/State.lean ====
section
/-! DEFINITION. The state of the machine as plain data: the seven registers of R25, and beside them the host's side (the pins it holds, the lines of its script, what it last read) as the model's own fields. -/

namespace Sys2Proof.Machine

/-- The levels the host drives on the input pins, sampled at a rising edge (R35, R68). `clk` is the step itself. -/
structure Pins where
  rst     : Bool
  start   : Bool
  blockIn : Block
  keyIn   : Block
  deriving DecidableEq, Repr

/-- One line of a host script (R92). `RESET`, `START` and each edge of `NOP n` are one `edge` line; `ENCRYPT` stands
for the 18 edge lines it expands to. -/
inductive Line where
  /-- One edge, with the pin levels the host holds at it. -/
  | edge (pins : Pins)
  /-- `NOP` repeated until `done = 1`. -/
  | wait
  /-- No edge; the host samples the output pins. -/
  | read
  deriving DecidableEq, Repr

/-- What a function unit, the codec or `READ`, executed as an operation of its own, answers. The units write no
register (41_permutation_engine.md), so their result is visible here only. -/
inductive Answer where
  | none
  /-- A vector of a stated width (R19). -/
  | bits (width : Nat) (value : BitVec width)
  /-- The two halves of `ROUND` (R140). -/
  | halves (l r : Half)
  /-- The sixteen subkeys of `KS` (R111). -/
  | subkeys (list : List Subkey)
  /-- The text of `encode` (R95). -/
  | text (chars : List Char)
  /-- What `READ` samples: `block_out`, `busy`, `done` (R92). -/
  | sample (blockOut : Block) (busy done : Bool)
  deriving DecidableEq, Repr

/-- The seven registers of R25 (190 bits), then the model's own fields (log entries 1 and 2). -/
structure State where
  /-- Left half-block (R26). -/
  L      : Half
  /-- Right half-block (R27). -/
  R      : Half
  /-- Left half of the scheduler's value (R28). -/
  C      : KeyHalf
  /-- Right half of the scheduler's value (R29). -/
  D      : KeyHalf
  /-- Sequencer position (R30): 0 IDLE, 1..16 rounds, 17 FINAL, 18..31 reserved. -/
  phase  : Phase
  /-- Last completed ciphertext (R31). -/
  OUT    : Block
  /-- `OUT` holds the result of the latest accepted START (R32). -/
  done   : Bool
  /-- The model's own: the levels the host holds on the input pins (R35: they are no state of the core). -/
  pins   : Pins
  /-- The model's own: the lines of the host script still to come (R92). -/
  script : List Line
  /-- The model's own: the last answer of a unit, the codec or `READ`. -/
  answer : Answer
  deriving DecidableEq, Repr

/-- The core never faults: "Complete list of synchronous exceptions of the hardware: none" (R172), and a model of it
"needs no fault outcome and no stuck outcome" (R186). So no reason exists, and none is ever raised. -/
inductive Fault where
  deriving DecidableEq, Repr

/-- Why the model gives a step or an operation no meaning. Every refusal is safe: nothing can be proved of what
follows it. -/
inductive Refusal where
  /-- Raised by `exec`'s arm of an operation that has no meaning yet; safe. No arm raises it now. -/
  | notModelled (mnemonic : String)
  /-- Raised where `phase` is in 18..31 by a step at an edge with `rst = 0`, by `NOP`, `START` and
  `ENCRYPT <block>, <key>`, and by `WAIT` and `READ`: the spec defines no step there but RESET and refuses every other
  claim (R75, R150, R186; U5 `refuse`); safe. -/
  | reservedPhase
  /-- Raised by a micro-operation asked for at an edge that does not select it: `rst = 1`, or another `phase`
  (preconditions of R154 and R156, R72); safe. -/
  | notSelected
  /-- Raised by `PERM` with an ill-formed table: `ConfigurationError`, with the table and the index of its first bad
  entry (R101, R171, R172; U4 `refuse`; log entry 7); safe. -/
  | configurationError (error : ConfigurationError)
  /-- Raised by `decode`: `FormatError`, "a refusal at that boundary (no pins are driven), never a value" (R94, R97,
  R170, R186; log entry 7); safe. -/
  | formatError
  /-- Raised by `encode` of a length that is no multiple of 4, for which the source gives no behaviour (R95, N12;
  U10 `refuse`); safe. -/
  | encodeLength
  deriving DecidableEq, Repr

/-- The machine right after the command RESET: every register 0 (R46). The host's side at that moment is the model's
choice (log entry 1): no request on the pins, no line pending, nothing answered yet. -/
def State.reset : State where
  L      := 0
  R      := 0
  C      := 0
  D      := 0
  phase  := 0
  OUT    := 0
  done   := false
  pins   := { rst := false, start := false, blockIn := 0, keyIn := 0 }
  script := []
  answer := .none

end Sys2Proof.Machine
end

