-- ==== Sys2Proof/Machine/Flags.lean ====
section
/-! DEFINITION. The status flags and the output pins (R31 to R36, R69): all are functions of the state alone. -/

namespace Sys2Proof.Machine

/-- `busy = (phase != 0)`, an output and no register (R33). -/
def State.busy (s : State) : Bool := s.phase != 0

/-- `block_out = OUT` (R36). -/
def State.blockOut (s : State) : Block := s.OUT

/-- Format `STAT`: bit 1 = `busy`, bit 0 = `done` (R69). -/
def State.stat (s : State) : BitVec 2 := BitVec.ofBool s.busy ++ BitVec.ofBool s.done

/-- What the host samples with `READ` (R92). -/
def State.sampled (s : State) : Answer := .sample s.blockOut s.busy s.done

end Sys2Proof.Machine
end

