-- ==== Sys2Proof/Machine/Fields.lean ====
section
/-! DEFINITION. The data formats of rule R70: how 64-, 56-, 48-, 32- and 6-bit values are cut into fields and joined (R14, R54). Every definition is a slice or a concatenation with both widths stated (R45). -/

namespace Sys2Proof.Machine

/-- `pos_W(v, p) = v[W - p]` for `1 <= p <= W`: position 1 is the most significant bit (R13). -/
def pos {w : Nat} (v : BitVec w) (p : Nat) : Bool := v.getLsbD (w - p)

/-- `BLOCK64`, left half: positions 1..32, bits [63:32]. -/
def leftHalf (v : Block) : Half := v.extractLsb' 32 32
/-- `BLOCK64`, right half: positions 33..64, bits [31:0]. -/
def rightHalf (v : Block) : Half := v.extractLsb' 0 32
/-- `a ‖ b` of two 32-bit halves (R14). -/
def joinHalves (a b : Half) : Block := a ++ b

/-- `CD56`, C: positions 1..28, bits [55:28] (R115). -/
def leftKeyHalf (v : Pair56) : KeyHalf := v.extractLsb' 28 28
/-- `CD56`, D: positions 29..56, bits [27:0] (R115). -/
def rightKeyHalf (v : Pair56) : KeyHalf := v.extractLsb' 0 28
/-- `c ‖ d` of two 28-bit halves (R115). -/
def joinKeyHalves (c d : KeyHalf) : Pair56 := c ++ d

/-- `SUB48`, chunk k (k = 0..7): positions 6k+1 .. 6k+6, bits [47-6k : 42-6k] (R70, R124). -/
def chunk (x : Subkey) (k : Nat) : Chunk := x.extractLsb' (42 - 6 * k) 6

/-- `CHUNK6`, row `2*x[5] + x[0]`, 0..3 (R58, R125). -/
def chunkRow (x : Chunk) : Nat := 2 * (x.getLsbD 5).toNat + (x.getLsbD 0).toNat
/-- `CHUNK6`, column `x[4:1]`, 0..15 (R58, R125). -/
def chunkColumn (x : Chunk) : Nat := (x.extractLsb' 1 4).toNat

/-- `HALF32`, nibble k (k = 0..7): positions 4k+1 .. 4k+4, bits [31-4k : 28-4k] (R70). -/
def nibble (v : Half) (k : Nat) : Nibble := v.extractLsb' (28 - 4 * k) 4

/-- `KEY64` and the byte view of a Block: byte j (j = 0..7), bits [63-8j : 56-8j], byte 0 first (R53, R70). -/
def byteOf (v : Block) (j : Nat) : BitVec 8 := v.extractLsb' (56 - 8 * j) 8

end Sys2Proof.Machine
end

