-- ==== Sys2Proof/WellFormed.lean ====
section
/-! DEFINITION. Which operations are well formed: a permutation table whose entries are source positions (R101), a codec width that is a multiple of 4 (R95). -/

namespace Sys2Proof

/-- Every entry of the table is a position of a `win`-bit input (R101). -/
def tableWellFormed (table : List Nat) (win : Nat) : Bool :=
  table.all fun t => decide (1 ≤ t ∧ t ≤ win)

/-- The static checks of an operation's operands. All other operands are fixed by their types (R45). -/
def Instr.wellFormed : Instr → Bool
  | .perm table win _ => tableWellFormed table win
  | .encode bits _ => decide (bits % 4 = 0)
  | .reset | .start _ _ | .nop | .idle | .rnd0 | .rnd1 | .rnd2 | .rnd3 | .rnd4 | .rnd5 | .rnd6 | .rnd7 | .rnd8
  | .rnd9 | .rnd10 | .rnd11 | .rnd12 | .rnd13 | .rnd14 | .rnd15 | .final | .ip _ | .fp _ | .pc1 _ | .pc2 _
  | .expand _ | .pbox _ | .sbox0 _ | .sbox1 _ | .sbox2 _ | .sbox3 _ | .sbox4 _ | .sbox5 _ | .sbox6 _ | .sbox7 _
  | .rotl28 _ _ | .ks _ | .sub _ | .f _ _ | .round _ _ _ | .encrypt _ _ | .decode _ _ | .encryptScript _ _
  | .wait | .read => true

end Sys2Proof
end

