-- ==== Sys2Proof/Machine/Tables.lean ====
section
/-! DEFINITION. The constant tables of rules R74 and R76 to R89, and the static range check of R101. They are constants, never state (R38). -/

namespace Sys2Proof.Machine

/-- `IP`, initial permutation, 64 entries (R76; table values from general knowledge, log entry 6). -/
def ipTable : List Nat :=
  [58, 50, 42, 34, 26, 18, 10,  2,
   60, 52, 44, 36, 28, 20, 12,  4,
   62, 54, 46, 38, 30, 22, 14,  6,
   64, 56, 48, 40, 32, 24, 16,  8,
   57, 49, 41, 33, 25, 17,  9,  1,
   59, 51, 43, 35, 27, 19, 11,  3,
   61, 53, 45, 37, 29, 21, 13,  5,
   63, 55, 47, 39, 31, 23, 15,  7]

/-- `FP`, final permutation, 64 entries (R77; table values from general knowledge, log entry 6). -/
def fpTable : List Nat :=
  [40,  8, 48, 16, 56, 24, 64, 32,
   39,  7, 47, 15, 55, 23, 63, 31,
   38,  6, 46, 14, 54, 22, 62, 30,
   37,  5, 45, 13, 53, 21, 61, 29,
   36,  4, 44, 12, 52, 20, 60, 28,
   35,  3, 43, 11, 51, 19, 59, 27,
   34,  2, 42, 10, 50, 18, 58, 26,
   33,  1, 41,  9, 49, 17, 57, 25]

/-- `PC1`, key parity-drop permutation, 56 entries; 1..28 form `C_0`, 29..56 form `D_0` (R78; table values from general knowledge, log entry 6). -/
def pc1Table : List Nat :=
  [57, 49, 41, 33, 25, 17,  9,
    1, 58, 50, 42, 34, 26, 18,
   10,  2, 59, 51, 43, 35, 27,
   19, 11,  3, 60, 52, 44, 36,
   63, 55, 47, 39, 31, 23, 15,
    7, 62, 54, 46, 38, 30, 22,
   14,  6, 61, 53, 45, 37, 29,
   21, 13,  5, 28, 20, 12,  4]

/-- `PC2`, key-compression permutation, 48 entries (R79; table values from general knowledge, log entry 6). -/
def pc2Table : List Nat :=
  [14, 17, 11, 24,  1,  5,
    3, 28, 15,  6, 21, 10,
   23, 19, 12,  4, 26,  8,
   16,  7, 27, 20, 13,  2,
   41, 52, 31, 37, 47, 55,
   30, 40, 51, 45, 33, 48,
   44, 49, 39, 56, 34, 53,
   46, 42, 50, 36, 29, 32]

/-- `E`, expansion permutation, 48 entries (R80; table values from general knowledge, log entry 6). -/
def eTable : List Nat :=
  [32,  1,  2,  3,  4,  5,
    4,  5,  6,  7,  8,  9,
    8,  9, 10, 11, 12, 13,
   12, 13, 14, 15, 16, 17,
   16, 17, 18, 19, 20, 21,
   20, 21, 22, 23, 24, 25,
   24, 25, 26, 27, 28, 29,
   28, 29, 30, 31, 32,  1]

/-- `P`, round output permutation, 32 entries (R81; table values from general knowledge, log entry 6). -/
def pTable : List Nat :=
  [16,  7, 20, 21, 29, 12, 28, 17,
    1, 15, 23, 26,  5, 18, 31, 10,
    2,  8, 24, 14, 32, 27,  3,  9,
   19, 13, 30,  6, 22, 11,  4, 25]

/-- `SBOX[0]`, rows 0 to 3 of 16 columns (R82; log entry 6). -/
def sbox0Table : List (List Nat) :=
  [[14,  4, 13,  1,  2, 15, 11,  8,  3, 10,  6, 12,  5,  9,  0,  7],
   [ 0, 15,  7,  4, 14,  2, 13,  1, 10,  6, 12, 11,  9,  5,  3,  8],
   [ 4,  1, 14,  8, 13,  6,  2, 11, 15, 12,  9,  7,  3, 10,  5,  0],
   [15, 12,  8,  2,  4,  9,  1,  7,  5, 11,  3, 14, 10,  0,  6, 13]]

/-- `SBOX[1]`, rows 0 to 3 of 16 columns (R83; log entry 6). -/
def sbox1Table : List (List Nat) :=
  [[15,  1,  8, 14,  6, 11,  3,  4,  9,  7,  2, 13, 12,  0,  5, 10],
   [ 3, 13,  4,  7, 15,  2,  8, 14, 12,  0,  1, 10,  6,  9, 11,  5],
   [ 0, 14,  7, 11, 10,  4, 13,  1,  5,  8, 12,  6,  9,  3,  2, 15],
   [13,  8, 10,  1,  3, 15,  4,  2, 11,  6,  7, 12,  0,  5, 14,  9]]

/-- `SBOX[2]`, rows 0 to 3 of 16 columns (R84; log entry 6). -/
def sbox2Table : List (List Nat) :=
  [[10,  0,  9, 14,  6,  3, 15,  5,  1, 13, 12,  7, 11,  4,  2,  8],
   [13,  7,  0,  9,  3,  4,  6, 10,  2,  8,  5, 14, 12, 11, 15,  1],
   [13,  6,  4,  9,  8, 15,  3,  0, 11,  1,  2, 12,  5, 10, 14,  7],
   [ 1, 10, 13,  0,  6,  9,  8,  7,  4, 15, 14,  3, 11,  5,  2, 12]]

/-- `SBOX[3]`, rows 0 to 3 of 16 columns (R85; log entry 6). -/
def sbox3Table : List (List Nat) :=
  [[ 7, 13, 14,  3,  0,  6,  9, 10,  1,  2,  8,  5, 11, 12,  4, 15],
   [13,  8, 11,  5,  6, 15,  0,  3,  4,  7,  2, 12,  1, 10, 14,  9],
   [10,  6,  9,  0, 12, 11,  7, 13, 15,  1,  3, 14,  5,  2,  8,  4],
   [ 3, 15,  0,  6, 10,  1, 13,  8,  9,  4,  5, 11, 12,  7,  2, 14]]

/-- `SBOX[4]`, rows 0 to 3 of 16 columns (R86; log entry 6). -/
def sbox4Table : List (List Nat) :=
  [[ 2, 12,  4,  1,  7, 10, 11,  6,  8,  5,  3, 15, 13,  0, 14,  9],
   [14, 11,  2, 12,  4,  7, 13,  1,  5,  0, 15, 10,  3,  9,  8,  6],
   [ 4,  2,  1, 11, 10, 13,  7,  8, 15,  9, 12,  5,  6,  3,  0, 14],
   [11,  8, 12,  7,  1, 14,  2, 13,  6, 15,  0,  9, 10,  4,  5,  3]]

/-- `SBOX[5]`, rows 0 to 3 of 16 columns (R87; log entry 6). -/
def sbox5Table : List (List Nat) :=
  [[12,  1, 10, 15,  9,  2,  6,  8,  0, 13,  3,  4, 14,  7,  5, 11],
   [10, 15,  4,  2,  7, 12,  9,  5,  6,  1, 13, 14,  0, 11,  3,  8],
   [ 9, 14, 15,  5,  2,  8, 12,  3,  7,  0,  4, 10,  1, 13, 11,  6],
   [ 4,  3,  2, 12,  9,  5, 15, 10, 11, 14,  1,  7,  6,  0,  8, 13]]

/-- `SBOX[6]`, rows 0 to 3 of 16 columns (R88; log entry 6). -/
def sbox6Table : List (List Nat) :=
  [[ 4, 11,  2, 14, 15,  0,  8, 13,  3, 12,  9,  7,  5, 10,  6,  1],
   [13,  0, 11,  7,  4,  9,  1, 10, 14,  3,  5, 12,  2, 15,  8,  6],
   [ 1,  4, 11, 13, 12,  3,  7, 14, 10, 15,  6,  8,  0,  5,  9,  2],
   [ 6, 11, 13,  8,  1,  4, 10,  7,  9,  5,  0, 15, 14,  2,  3, 12]]

/-- `SBOX[7]`, rows 0 to 3 of 16 columns (R89; log entry 6). -/
def sbox7Table : List (List Nat) :=
  [[13,  2,  8,  4,  6, 15, 11,  1, 10,  9,  3, 14,  5,  0, 12,  7],
   [ 1, 15, 13,  8, 10,  3,  7,  4, 12,  5,  6, 11,  0, 14,  9,  2],
   [ 7, 11,  4,  1,  9, 12, 14,  2,  0,  6, 10, 13, 15,  3,  5,  8],
   [ 2,  1, 14,  7,  4, 10,  8, 13, 15, 12,  9,  0,  3,  5,  6, 11]]

/-- The rotation schedule, 0-based round index (R74). -/
def shiftTable : List Shift :=
  [.one, .one, .two, .two, .two, .two, .two, .two, .one, .two, .two, .two, .two, .two, .two, .one]

/-- The one value of the record `Tables` (R11, R38). -/
def tables : Config.Tables where
  ip    := ipTable
  fp    := fpTable
  pc1   := pc1Table
  pc2   := pc2Table
  e     := eTable
  p     := pTable
  shift := shiftTable
  sbox  := [sbox0Table, sbox1Table, sbox2Table, sbox3Table, sbox4Table, sbox5Table, sbox6Table, sbox7Table]

/-- The amount a `Shift` stands for. -/
def shiftAmount : Shift → Nat
  | .one => 1
  | .two => 2

/-- `SHIFT[i]` for a 0-based round index i = 0..15 (R59, R74). -/
def shiftAt (i : Nat) : Shift := tables.shift.getD i .one

/-- The 1-based index of a table's first entry that is no position of a `win`-bit input, where there is one: what
`check` of R101 reports. -/
def firstBadEntry (win : Nat) : List Nat → Nat → Option Nat
  | [], _ => none
  | t :: rest, i => if 1 ≤ t ∧ t ≤ win then firstBadEntry win rest (i + 1) else some i

/-- `check(T, Win)` of R101: the error it raises, with the table and the index, or none for a well-formed table. -/
def checkTable (id : TableId) (table : List Nat) (win : Nat) : Option ConfigurationError :=
  match firstBadEntry win table 1 with
  | some i => some { table := id, index := i }
  | none => none

/-- The six permutation tables of a record, each with its name and input width (R20, R109). -/
def permutationTables (T : Config.Tables) : List (TableId × List Nat × Nat) :=
  [(.ip, T.ip, 64), (.fp, T.fp, 64), (.pc1, T.pc1, 64), (.pc2, T.pc2, 56), (.e, T.e, 32), (.p, T.p, 32)]

/-- The startup validation of the six permutation tables: the first error, with table and index, or none (R101, R171,
R194). DESIGN CHOICE (log entry 16): where several of the six are ill formed, the first in the order of
`permutationTables` is reported; R101's check is per table, and the spec gives the six no order. -/
def tablesCheck (T : Config.Tables) : Option ConfigurationError :=
  (permutationTables T).findSome? fun entry => checkTable entry.1 entry.2.1 entry.2.2

end Sys2Proof.Machine
end

