-- ==== Sys2Proof/Machine/Permutation.lean ====
section
/-! DEFINITION. The permutation engine (41_permutation_engine.md): the generic `PERM` and its six instances. -/

namespace Sys2Proof.Machine

/-- The number a sequence of bits writes, first bit most significant (R12, R93). -/
def bitsToNat (bits : List Bool) : Nat := bits.foldl (fun acc b => 2 * acc + b.toNat) 0

/-- `PERM(T, Win, v)`: output position i is input position `T[i]` (R99). `n` is the length of the table. -/
def permute (n : Nat) (table : List Nat) {win : Nat} (v : BitVec win) : BitVec n :=
  BitVec.ofNat n (bitsToNat (table.map (pos v)))

/-- `IP` (R103). -/
def ip (v : Block) : Block := permute 64 tables.ip v
/-- `FP` (R104). -/
def fp (v : Block) : Block := permute 64 tables.fp v
/-- `PC1` (R105). -/
def pc1 (key : Block) : Pair56 := permute 56 tables.pc1 key
/-- `PC2` (R106). -/
def pc2 (cd : Pair56) : Subkey := permute 48 tables.pc2 cd
/-- `EXPAND` (R107). -/
def expand (r : Half) : Subkey := permute 48 tables.e r
/-- `PBOX` (R108). -/
def pbox (s : Half) : Half := permute 32 tables.p s

end Sys2Proof.Machine
end

