-- ==== Sys2Proof/Machine/KeySchedule.lean ====
section
/-! DEFINITION. The key scheduler (42_key_scheduler.md): `ROTL28`, `KS`, `CDstate`. -/

namespace Sys2Proof.Machine

/-- `ROTL28(v, n)`: a left circular rotation within 28 bits, by the second formula of R114. -/
def rotl28 (v : KeyHalf) (n : Shift) : KeyHalf :=
  (v <<< shiftAmount n) ||| (v >>> (28 - shiftAmount n))

/-- One rotation of both halves, "each half independently" (R114). -/
def rotatePair (cd : KeyHalf × KeyHalf) (n : Shift) : KeyHalf × KeyHalf := (rotl28 cd.1 n, rotl28 cd.2 n)

/-- The loop of `KS`: the halves carry over from round to round (R111, R112). -/
def subkeysFrom : List Shift → KeyHalf × KeyHalf → List Subkey
  | [], _ => []
  | n :: rest, cd =>
    pc2 (joinKeyHalves (rotatePair cd n).1 (rotatePair cd n).2) :: subkeysFrom rest (rotatePair cd n)

/-- `(C_0, D_0)`: the split of the parity-dropped key (R111, R115). -/
def initialKeyPair (key : Block) : KeyHalf × KeyHalf := (leftKeyHalf (pc1 key), rightKeyHalf (pc1 key))

/-- `KS(key)`: the sixteen subkeys in round order (R111). -/
def ks (key : Block) : List Subkey :=
  subkeysFrom tables.shift (initialKeyPair key)

/-- `CDstate(key, i)` for i = 0..16: the halves after i rotations (R116). -/
def cdState (key : Block) : Nat → KeyHalf × KeyHalf
  | 0 => initialKeyPair key
  | i + 1 => rotatePair (cdState key i) (shiftAt i)

/-- `K[i]`, the subkey of round i = 0..15 (R116). -/
def subkey (key : Block) (i : Nat) : Subkey :=
  pc2 (joinKeyHalves (cdState key (i + 1)).1 (cdState key (i + 1)).2)

end Sys2Proof.Machine
end

