-- ==== Sys2Proof/Machine/RoundFunction.lean ====
section
/-! DEFINITION. The round function (43_round_function.md): the S-boxes, `SUB` and `F`. -/

namespace Sys2Proof.Machine

/-- `SBOX[k][row][col]` as four bits (R50, R125). -/
def sboxEntry (k row col : Nat) : Nibble :=
  BitVec.ofNat 4 (((tables.sbox.getD k []).getD row []).getD col 0)

/-- `SBOX_k(x)`, k = 0..7: row from the first and last bit, column from the middle four (R125). -/
def sbox (k : Nat) (x : Chunk) : Nibble := sboxEntry k (chunkRow x) (chunkColumn x)

/-- `SUB(x)`: the eight nibbles in chunk order, nibble 0 most significant (R126). -/
def sub (x : Subkey) : Half :=
  sbox 0 (chunk x 0) ++ sbox 1 (chunk x 1) ++ sbox 2 (chunk x 2) ++ sbox 3 (chunk x 3) ++
  sbox 4 (chunk x 4) ++ sbox 5 (chunk x 5) ++ sbox 6 (chunk x 6) ++ sbox 7 (chunk x 7)

/-- `F(r, k)`: expansion, key mixing, substitution, round output permutation, in this order (R122, R123, R127). -/
def feistel (r : Half) (k : Subkey) : Half := pbox (sub (expand r ^^^ k))

end Sys2Proof.Machine
end

