-- ==== Sys2Proof/Machine/Pipeline.lean ====
section
/-! DEFINITION. The Feistel pipeline as a pure function (44_feistel_pipeline.md): `ROUND`, `ENCRYPT`, and the reference functions `ROUNDINV` and `DECRYPT`, which are no hardware (R7, R149). -/

namespace Sys2Proof.Machine

/-- `ROUND(l, r, k) = (r, l xor F(r, k))` (R140). -/
def feistelRound (l r : Half) (k : Subkey) : Half × Half := (r, l ^^^ feistel r k)

/-- The inverse of `ROUND` for one subkey, a reference function (R140). -/
def roundInverse (l r : Half) (k : Subkey) : Half × Half := (r ^^^ feistel l k, l)

/-- The rounds, in the order of the subkeys (R141). -/
def rounds : List Subkey → Half × Half → Half × Half
  | [], lr => lr
  | k :: rest, lr => rounds rest (feistelRound lr.1 lr.2 k)

/-- `(L_0, R_0)`: the split of the initially permuted block (R139). -/
def initialPair (p : Block) : Half × Half := (leftHalf (ip p), rightHalf (ip p))

/-- `FP(r ‖ l)`: the half swap and the final permutation of a last pair `(l, r)` (R142, R143). -/
def finalBlock (lr : Half × Half) : Block := fp (joinHalves lr.2 lr.1)

/-- `ENCRYPT(p, key)` (R138). -/
def encrypt (p key : Block) : Block := finalBlock (rounds (ks key) (initialPair p))

/-- `(L_i, R_i)` for i = 0..16, the pair after i rounds (R141). -/
def pairAt (p key : Block) : Nat → Half × Half
  | 0 => initialPair p
  | i + 1 => feistelRound (pairAt p key i).1 (pairAt p key i).2 (subkey key i)

/-- `DECRYPT(c, key)`: the inverse of `ENCRYPT` as a mathematical function, the same algorithm with the subkeys in
reverse order and the half swap kept (R149, 90_conflicts.md C1). The hardware does not implement it. -/
def decryptReference (c key : Block) : Block := finalBlock (rounds (ks key).reverse (initialPair c))

end Sys2Proof.Machine
end

