-- ==== Sys2Proof/Machine/Operands.lean ====
section
/-! DEFINITION. Operand assembly (R71): what each micro-operation and command takes from the registers and the pins. The initial pairs of START are `initialPair` and `initialKeyPair`, the S-box inputs `chunk`, `chunkRow`, `chunkColumn`. -/

namespace Sys2Proof.Machine

/-- `C' ‖ D'` of round i as its two halves: both registers rotated by `SHIFT[i]` (R71, R154). -/
def State.rotatedKey (s : State) (i : Nat) : KeyHalf × KeyHalf := rotatePair (s.C, s.D) (shiftAt i)

/-- The subkey of round i, formed from the rotated halves (R71, R154). -/
def State.roundSubkey (s : State) (i : Nat) : Subkey :=
  pc2 (joinKeyHalves (s.rotatedKey i).1 (s.rotatedKey i).2)

/-- The pre-output block `R ‖ L`: R in positions 1..32 (R71, R142). -/
def State.preOutput (s : State) : Block := joinHalves s.R s.L

end Sys2Proof.Machine
end

