-- ==== Sys2Proof/Machine/Ops.lean ====
section
/-! DEFINITION. The shared operations on the state: the register writes of RESET, START, RNDi and FINAL, what an edge does without a host request, and the host's own lines. The hardware has no memory (R51) and no trap, so no trap entry or return (R177, R178): the one event that diverts the sequencer is RESET. -/

namespace Sys2Proof.Machine

/-- RESET: every register 0, from any state whatever (R46, R151). -/
def State.applyReset (s : State) : State :=
  { s with phase := 0, done := false, OUT := 0, L := 0, R := 0, C := 0, D := 0 }

/-- An accepted START: the permuted plaintext and the parity-dropped key are loaded, `OUT` is kept (R152). -/
def State.loadStart (s : State) (blockIn keyIn : Block) : State :=
  { s with
    L     := (initialPair blockIn).1
    R     := (initialPair blockIn).2
    C     := (initialKeyPair keyIn).1
    D     := (initialKeyPair keyIn).2
    phase := 1
    done  := false }

/-- RNDi: one rotation of the key halves and one round, all from the values before the edge (R154). -/
def State.applyRound (s : State) (i : Nat) : State :=
  { s with
    L     := (feistelRound s.L s.R (s.roundSubkey i)).1
    R     := (feistelRound s.L s.R (s.roundSubkey i)).2
    C     := (s.rotatedKey i).1
    D     := (s.rotatedKey i).2
    phase := s.phase + 1 }

/-- FINAL: the half swap and the final permutation into `OUT` (R156). -/
def State.applyFinal (s : State) : State :=
  { s with OUT := fp s.preOutput, done := true, phase := 0 }

/-- What an edge does without a host request: `phase` alone decides (R153). -/
def State.sequence (s : State) : Host.Outcome State Fault Refusal :=
  if s.phase.toNat = 0 then .next s
  else if s.phase.toNat ≤ 16 then .next (s.applyRound (s.phase.toNat - 1))
  else if s.phase.toNat = 17 then .next s.applyFinal
  else .refused .reservedPhase

/-- What the host's own lines do in a legal state; from a reserved `phase` every claim but that of RESET is refused (R75,
R186; U5; log entries 4 and 15). -/
def State.ifLegal (s : State) (outcome : Host.Outcome State Fault Refusal) : Host.Outcome State Fault Refusal :=
  if s.phase.toNat ≤ 17 then outcome else .refused .reservedPhase

/-- An edge with `start = 1`: START where `phase = 0`, else the `start` is ignored (R150, R153). -/
def State.request (s : State) (blockIn keyIn : Block) : Host.Outcome State Fault Refusal :=
  if s.phase.toNat = 0 then .next (s.loadStart blockIn keyIn) else s.sequence

/-- A micro-operation of its own `phase` value at an edge with `rst = 0` (preconditions of R153, R154, R156). -/
def State.selects (s : State) (value : Phase) : Bool := !s.pins.rst && s.phase == value

/-- RNDi as the micro-operation that `phase = i + 1` selects (R154, R155). -/
def State.microRound (s : State) (i : Nat) : Host.Outcome State Fault Refusal :=
  if s.selects (BitVec.ofNat 5 (i + 1)) then .next (s.applyRound i) else .refused .notSelected

/-- A unit's result: the registers are untouched, the answer is recorded (R99: "Flags written: none"). -/
def State.answered (s : State) (a : Answer) : State := { s with answer := a }

/-- A unit that answers a vector. -/
def State.answerBits (s : State) {w : Nat} (v : BitVec w) : Host.Outcome State Fault Refusal :=
  .next (s.answered (.bits w v))

/-- The pins of a `NOP` line: no reset, no request, the operand pins as they were (R92: don't-care). -/
def Pins.idle (p : Pins) : Pins := { p with rst := false, start := false }

/-- The pins of a `START` line (R92). -/
def Pins.request (blockIn keyIn : Block) : Pins :=
  { rst := false, start := true, blockIn := blockIn, keyIn := keyIn }

/-- The pins of a `RESET` line, the other pins as they were (R92: don't-care). -/
def Pins.reset (p : Pins) : Pins := { p with rst := true }

/-- The host drives a `NOP` line for one edge. -/
def State.nopLine (s : State) : Host.Outcome State Fault Refusal :=
  State.sequence { s with pins := s.pins.idle }

/-- The host drives a `START` line for one edge. -/
def State.startLine (s : State) (blockIn keyIn : Block) : Host.Outcome State Fault Refusal :=
  State.request { s with pins := Pins.request blockIn keyIn } blockIn keyIn

/-- `NOP n`: n edges (R92). -/
def State.nopLines : Nat → State → Host.Outcome State Fault Refusal
  | 0, s => .next s
  | n + 1, s =>
    match s.nopLine with
    | .next t => State.nopLines n t
    | .fault r => .fault r
    | .refused r => .refused r

/-- `NOP` repeated until `done = 1`, for at most n edges (R92). -/
def State.nopUntilDone : Nat → State → Host.Outcome State Fault Refusal
  | 0, s => .next s
  | n + 1, s =>
    if s.done then .next s
    else
      match s.nopLine with
      | .next t => State.nopUntilDone n t
      | .fault r => .fault r
      | .refused r => .refused r

/-- A `WAIT` line that has not ended stays the next line of the script; one that has ended leaves it as it is. -/
def State.waitEnded (s : State) : State :=
  if s.done then s else { s with script := .wait :: s.script }

/-- The script lines of `NOP n` (R92; the operand pins are don't-care, here 0). -/
def nopScript (n : Nat) : List Line :=
  List.replicate n (.edge { rst := false, start := false, blockIn := 0, keyIn := 0 })

/-- The script lines `ENCRYPT <block>, <key>` expands to: `START <block>, <key>` and `NOP 17` (R92). -/
def encryptLines (block key : Block) : List Line := .edge (Pins.request block key) :: nopScript 17

end Sys2Proof.Machine
end

