-- ==== Sys2Proof/Machine/Commands.lean ====
section
/-! DEFINITION. The host commands RESET, START and NOP (45_sequencer_and_commands.md, section 2). Each is one edge with the pins of its own `CTRL` word and operands; the levels in `State.pins` are not looked at (log entry 5). -/

namespace Sys2Proof.Machine

/-- `RESET` (R151). -/
def execReset (s : State) : Host.Outcome State Fault Refusal := .next s.applyReset

/-- `START <block>, <key>`: accepted where `phase = 0` (R152); elsewhere the word decodes as NOP (R68, R153). -/
def execStart (blockIn keyIn : Block) (s : State) : Host.Outcome State Fault Refusal := s.request blockIn keyIn

/-- `NOP`: no request; what the edge does is decided by `phase` alone (R153). -/
def execNop (s : State) : Host.Outcome State Fault Refusal := s.sequence

end Sys2Proof.Machine
end

