-- ==== Sys2Proof/Machine/Codec.lean ====
section
/-! DEFINITION. BitCodec, the host-side text convention (40_bitcodec.md): `decode` and `encode`. It is no part of the hardware (R98). -/

namespace Sys2Proof.Machine

/-- The value of a hexadecimal digit; lower case is accepted on input (R94, R98, D15). -/
def hexDigit? (c : Char) : Option Nat :=
  if '0' ≤ c ∧ c ≤ '9' then some (c.toNat - 48)
  else if 'A' ≤ c ∧ c ≤ 'F' then some (c.toNat - 55)
  else if 'a' ≤ c ∧ c ≤ 'f' then some (c.toNat - 87)
  else none

/-- The value of a text, first digit most significant (R93); none where a character is no hexadecimal digit. -/
def hexValue? : List Char → Nat → Option Nat
  | [], acc => some acc
  | c :: rest, acc =>
    match hexDigit? c with
    | some d => hexValue? rest (16 * acc + d)
    | none => none

/-- The value of what `decode` is given (R94). -/
def codecValue? : CodecInput → Option Nat
  | .text chars => hexValue? chars 0
  | .integer v => some v

/-- The number of bits `decode` is asked for. -/
def targetBits : CodecTarget → Nat
  | .width n => n
  | .block => 64

/-- The text of a Block or MasterKey, that is any text decoded at 64 bits, is exactly 16 characters: padding is left to
integers and to other widths (R97, C4; log entry 12). -/
def lengthAccepted : CodecInput → CodecTarget → Bool
  | .text chars, target => decide (targetBits target ≠ 64 ∨ chars.length = 16)
  | .integer _, _ => true

/-- `decode`: the value, left-zero-padded, or none for `FormatError` (R94, R97). -/
def decodeText? (x : CodecInput) (target : CodecTarget) : Option Nat :=
  if lengthAccepted x target then
    match codecValue? x with
    | some v => if v < 2 ^ targetBits target then some v else none
    | none => none
  else none

/-- The upper-case hexadecimal digit of a nibble's value (R95). -/
def hexChar (d : Nat) : Char := if d < 10 then Char.ofNat (48 + d) else Char.ofNat (55 + d)

/-- `n` hexadecimal digits of a value, most significant first, leading zeros kept (R95). -/
def hexText : Nat → Nat → List Char
  | 0, _ => []
  | n + 1, v => hexChar (v / 16 ^ n % 16) :: hexText n v

/-- `encode` of a sequence whose length is a multiple of 4: `bits / 4` digits (R95). -/
def encodeText {bits : Nat} (v : BitVec bits) : List Char := hexText (bits / 4) v.toNat

end Sys2Proof.Machine
end

