-- ==== Sys2Proof/Machine/HostSide.lean ====
section
/-! DEFINITION. What the host does beside the three commands: the codec (40_bitcodec.md) and the pseudo-instructions of the host script (R92). -/

namespace Sys2Proof.Machine

/-- `decode`: no pin is driven; `FormatError` is a refusal, never a value (R94, R97, R186; log entry 7). -/
def execDecode (x : CodecInput) (target : CodecTarget) (s : State) : Host.Outcome State Fault Refusal :=
  match decodeText? x target with
  | some v => s.answerBits (BitVec.ofNat (targetBits target) v)
  | none => .refused .formatError

/-- `encode`, for a length that is a multiple of 4 (R95; U10). -/
def execEncode (bits : Nat) (v : BitVec bits) (s : State) : Host.Outcome State Fault Refusal :=
  if bits % 4 = 0 then .next (s.answered (.text (encodeText v))) else .refused .encodeLength

/-- `ENCRYPT <block>, <key>` = `START <block>, <key>` followed by `NOP 17` (R92). -/
def execEncryptScript (block key : Block) (s : State) : Host.Outcome State Fault Refusal :=
  match s.startLine block key with
  | .next t => State.nopLines 17 t
  | .fault r => .fault r
  | .refused r => .refused r

/-- `WAIT` = `NOP` repeated until `done = 1` (R92). From every legal state 17 edges either reach `done = 1` or leave
the core in IDLE with no result, where `NOP` changes nothing however often it is repeated (R153): the line then stays
pending. That it takes no edge where `done = 1` at the start is the model's reading too (both log entry 10). From a
reserved `phase` it is refused, whatever `done` is (R75; log entry 15). -/
def execWait (s : State) : Host.Outcome State Fault Refusal :=
  s.ifLegal <|
    match State.nopUntilDone 17 s with
    | .next t => .next t.waitEnded
    | .fault r => .fault r
    | .refused r => .refused r

/-- `READ` = no edge; the host samples `block_out`, `busy`, `done` (R92). At a reserved `phase` it is refused, since
nothing may be claimed of such a state but RESET (R75, R186; U5; log entry 15). -/
def execRead (s : State) : Host.Outcome State Fault Refusal := s.ifLegal (.next (s.answered s.sampled))

end Sys2Proof.Machine
end

