-- ==== Sys2Proof/Machine/Sequencer.lean ====
section
/-! DEFINITION. The micro-operations IDLE, RND0 to RND15 and FINAL (45_sequencer_and_commands.md, section 3; R72). -/

namespace Sys2Proof.Machine

/-- `IDLE`, `phase = 0`: "performs START if `start = 1`, else nothing" (R72, R152, R153). -/
def execIdle (s : State) : Host.Outcome State Fault Refusal :=
  if s.selects 0 then
    if s.pins.start then .next (s.loadStart s.pins.blockIn s.pins.keyIn) else .next s
  else .refused .notSelected

/-- `RND0`: `phase = 1`, `SHIFT[0] = 1`, subkey `K[0]` (R154, R155). -/
def execRnd0 (s : State) : Host.Outcome State Fault Refusal := s.microRound 0

/-- `RND1`: `phase = 2`, `SHIFT[1] = 1`, subkey `K[1]` (R154, R155). -/
def execRnd1 (s : State) : Host.Outcome State Fault Refusal := s.microRound 1

/-- `RND2`: `phase = 3`, `SHIFT[2] = 2`, subkey `K[2]` (R154, R155). -/
def execRnd2 (s : State) : Host.Outcome State Fault Refusal := s.microRound 2

/-- `RND3`: `phase = 4`, `SHIFT[3] = 2`, subkey `K[3]` (R154, R155). -/
def execRnd3 (s : State) : Host.Outcome State Fault Refusal := s.microRound 3

/-- `RND4`: `phase = 5`, `SHIFT[4] = 2`, subkey `K[4]` (R154, R155). -/
def execRnd4 (s : State) : Host.Outcome State Fault Refusal := s.microRound 4

/-- `RND5`: `phase = 6`, `SHIFT[5] = 2`, subkey `K[5]` (R154, R155). -/
def execRnd5 (s : State) : Host.Outcome State Fault Refusal := s.microRound 5

/-- `RND6`: `phase = 7`, `SHIFT[6] = 2`, subkey `K[6]` (R154, R155). -/
def execRnd6 (s : State) : Host.Outcome State Fault Refusal := s.microRound 6

/-- `RND7`: `phase = 8`, `SHIFT[7] = 2`, subkey `K[7]` (R154, R155). -/
def execRnd7 (s : State) : Host.Outcome State Fault Refusal := s.microRound 7

/-- `RND8`: `phase = 9`, `SHIFT[8] = 1`, subkey `K[8]` (R154, R155). -/
def execRnd8 (s : State) : Host.Outcome State Fault Refusal := s.microRound 8

/-- `RND9`: `phase = 10`, `SHIFT[9] = 2`, subkey `K[9]` (R154, R155). -/
def execRnd9 (s : State) : Host.Outcome State Fault Refusal := s.microRound 9

/-- `RND10`: `phase = 11`, `SHIFT[10] = 2`, subkey `K[10]` (R154, R155). -/
def execRnd10 (s : State) : Host.Outcome State Fault Refusal := s.microRound 10

/-- `RND11`: `phase = 12`, `SHIFT[11] = 2`, subkey `K[11]` (R154, R155). -/
def execRnd11 (s : State) : Host.Outcome State Fault Refusal := s.microRound 11

/-- `RND12`: `phase = 13`, `SHIFT[12] = 2`, subkey `K[12]` (R154, R155). -/
def execRnd12 (s : State) : Host.Outcome State Fault Refusal := s.microRound 12

/-- `RND13`: `phase = 14`, `SHIFT[13] = 2`, subkey `K[13]` (R154, R155). -/
def execRnd13 (s : State) : Host.Outcome State Fault Refusal := s.microRound 13

/-- `RND14`: `phase = 15`, `SHIFT[14] = 2`, subkey `K[14]` (R154, R155). -/
def execRnd14 (s : State) : Host.Outcome State Fault Refusal := s.microRound 14

/-- `RND15`: `phase = 16`, `SHIFT[15] = 1`, subkey `K[15]` (R154, R155). -/
def execRnd15 (s : State) : Host.Outcome State Fault Refusal := s.microRound 15

/-- `FINAL`, `phase = 17` (R156). -/
def execFinal (s : State) : Host.Outcome State Fault Refusal :=
  if s.selects 17 then .next s.applyFinal else .refused .notSelected

end Sys2Proof.Machine
end

