-- ==== Sys2Proof/Machine/Units.lean ====
section
/-! DEFINITION. The function units as operations of their own (41 to 44 of spec/): each answers its result and touches no register, flag or pin. -/

namespace Sys2Proof.Machine

/-- `PERM(T, Win, v)`; an ill-formed table is a configuration error, never a result (R99, R101; log entry 7). -/
def execPerm (table : List Nat) (win : Nat) (v : BitVec win) (s : State) : Host.Outcome State Fault Refusal :=
  match checkTable (.given table) table win with
  | some error => .refused (.configurationError error)
  | none => s.answerBits (permute table.length table v)

/-- `IP` (R103). -/
def execIp (v : Block) (s : State) : Host.Outcome State Fault Refusal := s.answerBits (ip v)

/-- `FP` (R104). -/
def execFp (v : Block) (s : State) : Host.Outcome State Fault Refusal := s.answerBits (fp v)

/-- `PC1` (R105). -/
def execPc1 (key : Block) (s : State) : Host.Outcome State Fault Refusal := s.answerBits (pc1 key)

/-- `PC2` (R106). -/
def execPc2 (cd : Pair56) (s : State) : Host.Outcome State Fault Refusal := s.answerBits (pc2 cd)

/-- `EXPAND` (R107). -/
def execExpand (r : Half) (s : State) : Host.Outcome State Fault Refusal := s.answerBits (expand r)

/-- `PBOX` (R108). -/
def execPbox (v : Half) (s : State) : Host.Outcome State Fault Refusal := s.answerBits (pbox v)

/-- `SBOX_0` (R125, table R82). -/
def execSbox0 (x : Chunk) (s : State) : Host.Outcome State Fault Refusal := s.answerBits (sbox 0 x)

/-- `SBOX_1` (R125, table R83). -/
def execSbox1 (x : Chunk) (s : State) : Host.Outcome State Fault Refusal := s.answerBits (sbox 1 x)

/-- `SBOX_2` (R125, table R84). -/
def execSbox2 (x : Chunk) (s : State) : Host.Outcome State Fault Refusal := s.answerBits (sbox 2 x)

/-- `SBOX_3` (R125, table R85). -/
def execSbox3 (x : Chunk) (s : State) : Host.Outcome State Fault Refusal := s.answerBits (sbox 3 x)

/-- `SBOX_4` (R125, table R86). -/
def execSbox4 (x : Chunk) (s : State) : Host.Outcome State Fault Refusal := s.answerBits (sbox 4 x)

/-- `SBOX_5` (R125, table R87). -/
def execSbox5 (x : Chunk) (s : State) : Host.Outcome State Fault Refusal := s.answerBits (sbox 5 x)

/-- `SBOX_6` (R125, table R88). -/
def execSbox6 (x : Chunk) (s : State) : Host.Outcome State Fault Refusal := s.answerBits (sbox 6 x)

/-- `SBOX_7` (R125, table R89). -/
def execSbox7 (x : Chunk) (s : State) : Host.Outcome State Fault Refusal := s.answerBits (sbox 7 x)

/-- `ROTL28` (R114). -/
def execRotl28 (v : KeyHalf) (n : Shift) (s : State) : Host.Outcome State Fault Refusal := s.answerBits (rotl28 v n)

/-- `KS` (R111). -/
def execKs (key : Block) (s : State) : Host.Outcome State Fault Refusal := .next (s.answered (.subkeys (ks key)))

/-- `SUB` (R126). -/
def execSub (x : Subkey) (s : State) : Host.Outcome State Fault Refusal := s.answerBits (sub x)

/-- `F` (R122). -/
def execF (r : Half) (k : Subkey) (s : State) : Host.Outcome State Fault Refusal := s.answerBits (feistel r k)

/-- `ROUND` (R140). -/
def execRound (l r : Half) (k : Subkey) (s : State) : Host.Outcome State Fault Refusal :=
  .next (s.answered (.halves (feistelRound l r k).1 (feistelRound l r k).2))

/-- `ENCRYPT`, the function (R138). -/
def execEncrypt (p key : Block) (s : State) : Host.Outcome State Fault Refusal := s.answerBits (encrypt p key)

end Sys2Proof.Machine
end

