-- ==== Sys2Proof/Machine/Dispatch.lean ====
section
/-! DEFINITION. One arm per operation of the table: each calls its own meaning. -/

namespace Sys2Proof.Machine

def exec (i : Instr) (s : State) : Host.Outcome State Fault Refusal :=
  match i with
  | .reset => Sys2Proof.Machine.execReset s
  | .start blockIn keyIn => Sys2Proof.Machine.execStart blockIn keyIn s
  | .nop => Sys2Proof.Machine.execNop s
  | .idle => Sys2Proof.Machine.execIdle s
  | .rnd0 => Sys2Proof.Machine.execRnd0 s
  | .rnd1 => Sys2Proof.Machine.execRnd1 s
  | .rnd2 => Sys2Proof.Machine.execRnd2 s
  | .rnd3 => Sys2Proof.Machine.execRnd3 s
  | .rnd4 => Sys2Proof.Machine.execRnd4 s
  | .rnd5 => Sys2Proof.Machine.execRnd5 s
  | .rnd6 => Sys2Proof.Machine.execRnd6 s
  | .rnd7 => Sys2Proof.Machine.execRnd7 s
  | .rnd8 => Sys2Proof.Machine.execRnd8 s
  | .rnd9 => Sys2Proof.Machine.execRnd9 s
  | .rnd10 => Sys2Proof.Machine.execRnd10 s
  | .rnd11 => Sys2Proof.Machine.execRnd11 s
  | .rnd12 => Sys2Proof.Machine.execRnd12 s
  | .rnd13 => Sys2Proof.Machine.execRnd13 s
  | .rnd14 => Sys2Proof.Machine.execRnd14 s
  | .rnd15 => Sys2Proof.Machine.execRnd15 s
  | .final => Sys2Proof.Machine.execFinal s
  | .perm table win v => Sys2Proof.Machine.execPerm table win v s
  | .ip v => Sys2Proof.Machine.execIp v s
  | .fp v => Sys2Proof.Machine.execFp v s
  | .pc1 key => Sys2Proof.Machine.execPc1 key s
  | .pc2 cd => Sys2Proof.Machine.execPc2 cd s
  | .expand r => Sys2Proof.Machine.execExpand r s
  | .pbox v => Sys2Proof.Machine.execPbox v s
  | .sbox0 x => Sys2Proof.Machine.execSbox0 x s
  | .sbox1 x => Sys2Proof.Machine.execSbox1 x s
  | .sbox2 x => Sys2Proof.Machine.execSbox2 x s
  | .sbox3 x => Sys2Proof.Machine.execSbox3 x s
  | .sbox4 x => Sys2Proof.Machine.execSbox4 x s
  | .sbox5 x => Sys2Proof.Machine.execSbox5 x s
  | .sbox6 x => Sys2Proof.Machine.execSbox6 x s
  | .sbox7 x => Sys2Proof.Machine.execSbox7 x s
  | .rotl28 v n => Sys2Proof.Machine.execRotl28 v n s
  | .ks key => Sys2Proof.Machine.execKs key s
  | .sub x => Sys2Proof.Machine.execSub x s
  | .f r k => Sys2Proof.Machine.execF r k s
  | .round l r k => Sys2Proof.Machine.execRound l r k s
  | .encrypt p key => Sys2Proof.Machine.execEncrypt p key s
  | .decode x target => Sys2Proof.Machine.execDecode x target s
  | .encode bits v => Sys2Proof.Machine.execEncode bits v s
  | .encryptScript block key => Sys2Proof.Machine.execEncryptScript block key s
  | .wait => Sys2Proof.Machine.execWait s
  | .read => Sys2Proof.Machine.execRead s

end Sys2Proof.Machine
end

