-- ==== Sys2Proof/Decode.lean ====
section
/-! DEFINITION. Decoding (R68, R72, R150) and the encoder. Two things are decoded in this hardware: the control pins, with `phase`, and `phase` itself. The units, the codec and the pseudo-instructions are selected by no bits (R73). -/

namespace Sys2Proof

/-- Why a word is no operation. -/
inductive DecodeError where
  /-- `phase` in 18..31 with `rst = 0` (R75). -/
  | reservedPhase
  /-- The bits of the first byte above the two `CTRL` bits are not 0 (log entry 9). -/
  | controlPadding
  deriving DecidableEq, Repr

/-- What an operation is encoded in: the control pins with the operand pins, or the sequencer register. -/
inductive Encoding where
  /-- Bits 1..0 are `CTRL = {rst, start}` (R68), bits 7..2 are 0; bits 71..8 are `block_in`, bits 135..72 `key_in`
  (log entry 9: the table gives the operand pins no bits). -/
  | ctrl (word : BitVec 136)
  /-- `phase[4:0]` (R72). -/
  | seq (phase : Phase)
  deriving DecidableEq, Repr

/-- Format `CTRL` (R68): which host command the pins give at an edge; `start` is honoured only in IDLE. -/
def decodeCtrl (phase : Phase) (rst start : Bool) (blockIn keyIn : Block) : Except DecodeError Instr :=
  if rst then .ok .reset
  else if phase.toNat = 0 then (if start then .ok (.start blockIn keyIn) else .ok .nop)
  else if phase.toNat ≤ 17 then .ok .nop
  else .error .reservedPhase

/-- Format `SEQ` (R72): which micro-operation `phase` selects. -/
def decodeSeq (phase : Phase) : Except DecodeError Instr :=
  match phase.toNat with
  | 0 => .ok .idle
  | 1 => .ok .rnd0
  | 2 => .ok .rnd1
  | 3 => .ok .rnd2
  | 4 => .ok .rnd3
  | 5 => .ok .rnd4
  | 6 => .ok .rnd5
  | 7 => .ok .rnd6
  | 8 => .ok .rnd7
  | 9 => .ok .rnd8
  | 10 => .ok .rnd9
  | 11 => .ok .rnd10
  | 12 => .ok .rnd11
  | 13 => .ok .rnd12
  | 14 => .ok .rnd13
  | 15 => .ok .rnd14
  | 16 => .ok .rnd15
  | 17 => .ok .final
  | _ => .error .reservedPhase

/-- What fires at an edge, in the order of R150: RESET, an accepted START, else the micro-operation of `phase`. -/
def decodeEdge (phase : Phase) (rst start : Bool) (blockIn keyIn : Block) : Except DecodeError Instr :=
  match decodeCtrl phase rst start blockIn keyIn with
  | .ok .nop => decodeSeq phase
  | other => other

/-- The pin levels of a control word. -/
def wordRst (w : BitVec 136) : Bool := w.getLsbD 1
def wordStart (w : BitVec 136) : Bool := w.getLsbD 0
def wordBlock (w : BitVec 136) : Block := w.extractLsb' 8 64
def wordKey (w : BitVec 136) : Block := w.extractLsb' 72 64

/-- Reads an encoding; a control word is read at a given `phase` (R68: "Decoding needs `phase` as well"). -/
def decodeWord (phase : Phase) : Encoding → Except DecodeError Instr
  | .ctrl w =>
    if w.extractLsb' 2 6 = 0 then decodeCtrl phase (wordRst w) (wordStart w) (wordBlock w) (wordKey w)
    else .error .controlPadding
  | .seq p => decodeSeq p

/-- A control word from its pins. -/
def controlWord (rst start : Bool) (blockIn keyIn : Block) : BitVec 136 :=
  keyIn ++ (blockIn ++ (0#6 ++ (BitVec.ofBool rst ++ BitVec.ofBool start)))

/-- The encoding of an operation that bits select (R68, R72); the don't-care pins are written 0. -/
def encode : Instr → Option Encoding
  | .reset => some (.ctrl (controlWord true false 0 0))
  | .start blockIn keyIn => some (.ctrl (controlWord false true blockIn keyIn))
  | .nop => some (.ctrl (controlWord false false 0 0))
  | .idle => some (.seq 0)
  | .rnd0 => some (.seq 1)
  | .rnd1 => some (.seq 2)
  | .rnd2 => some (.seq 3)
  | .rnd3 => some (.seq 4)
  | .rnd4 => some (.seq 5)
  | .rnd5 => some (.seq 6)
  | .rnd6 => some (.seq 7)
  | .rnd7 => some (.seq 8)
  | .rnd8 => some (.seq 9)
  | .rnd9 => some (.seq 10)
  | .rnd10 => some (.seq 11)
  | .rnd11 => some (.seq 12)
  | .rnd12 => some (.seq 13)
  | .rnd13 => some (.seq 14)
  | .rnd14 => some (.seq 15)
  | .rnd15 => some (.seq 16)
  | .final => some (.seq 17)
  | .perm _ _ _ | .ip _ | .fp _ | .pc1 _ | .pc2 _ | .expand _ | .pbox _ => none
  | .sbox0 _ | .sbox1 _ | .sbox2 _ | .sbox3 _ | .sbox4 _ | .sbox5 _ | .sbox6 _ | .sbox7 _ => none
  | .rotl28 _ _ | .ks _ | .sub _ | .f _ _ | .round _ _ _ | .encrypt _ _ => none
  | .decode _ _ | .encode _ _ | .encryptScript _ _ | .wait | .read => none

/-- The `phase` values at which a control word of the operation means it (R68); a micro-operation's own word is read
the same way at every `phase`, and an operation that no bits select is read nowhere. -/
def encodedAt : Instr → Phase → Bool
  | .start _ _, p => p == 0
  | .nop, p => p.toNat ≤ 17
  | .reset, _ | .idle, _ | .rnd0, _ | .rnd1, _ | .rnd2, _ | .rnd3, _ | .rnd4, _ | .rnd5, _ | .rnd6, _ | .rnd7, _
  | .rnd8, _ | .rnd9, _ | .rnd10, _ | .rnd11, _ | .rnd12, _ | .rnd13, _ | .rnd14, _ | .rnd15, _ | .final, _ => true
  | .perm _ _ _, _ | .ip _, _ | .fp _, _ | .pc1 _, _ | .pc2 _, _ | .expand _, _ | .pbox _, _ => false
  | .sbox0 _, _ | .sbox1 _, _ | .sbox2 _, _ | .sbox3 _, _ | .sbox4 _, _ | .sbox5 _, _ | .sbox6 _, _ => false
  | .sbox7 _, _ | .rotl28 _ _, _ | .ks _, _ | .sub _, _ | .f _ _, _ | .round _ _ _, _ | .encrypt _ _, _ => false
  | .decode _ _, _ | .encode _ _, _ | .encryptScript _ _, _ | .wait, _ | .read, _ => false

/-- The encoding a word of the opcode table stands for (log entry 9). The table numbers the bits of `CTRL` and of
`SEQ` from 0 alike, so one byte 0..3 could be either: it is read as `CTRL`; a byte 4..31 can only be `SEQ`, and a word of
5 bits is `SEQ`. -/
def tableEncoding (nbits w : Nat) : Encoding :=
  if (nbits = 5 ∨ (nbits = 8 ∧ 4 ≤ w)) ∧ w < 32 then .seq (BitVec.ofNat 5 w) else .ctrl (BitVec.ofNat 136 w)

/-- The operation of a word of the opcode table, read in IDLE; the operand pins above `nbits` are 0. -/
def decodeTableWord (nbits w : Nat) : Option Instr :=
  if w < 2 ^ nbits then
    match decodeWord 0 (tableEncoding nbits w) with
    | .ok i => some i
    | .error _ => none
  else none

end Sys2Proof
end

