-- ==== Sys2Proof/Machine/Fetch.lean ====
section
/-! DEFINITION. What the next step runs: the host's next line, and at an edge what the pins and `phase` select (R150). -/

namespace Sys2Proof.Machine

/-- What fires at an edge of this state (R150). -/
def State.selected (s : State) : Except DecodeError Instr :=
  decodeEdge s.phase s.pins.rst s.pins.start s.pins.blockIn s.pins.keyIn

/-- The operation the next step runs and the state it runs in. An `edge` line puts its levels on the pins; where no
line is left the host holds the pins (log entry 1). -/
def State.fetch (s : State) : Except DecodeError (Instr × State) :=
  match s.script with
  | [] =>
    match s.selected with
    | .ok i => .ok (i, s)
    | .error e => .error e
  | .edge p :: rest =>
    match State.selected { s with pins := p, script := rest } with
    | .ok i => .ok (i, { s with pins := p, script := rest })
    | .error e => .error e
  | .wait :: rest => .ok (.wait, { s with script := rest })
  | .read :: rest => .ok (.read, { s with script := rest })

/-- A word that is no operation stops the step by name. A step reads only the pins and `phase`, so only a reserved
`phase` can stop it. -/
def decodeRefusal : DecodeError → Refusal
  | .reservedPhase => .reservedPhase
  | .controlPadding => .reservedPhase

/-- The state whose next step runs the given encoding: its pins (and `phase = 0` for an accepted START), or its `phase`
with idle pins; no script line comes before it. -/
def State.present (s : State) : Encoding → State
  | .ctrl w =>
    { s with
      pins   := { rst := wordRst w, start := wordStart w, blockIn := wordBlock w, keyIn := wordKey w }
      phase  := if wordStart w && !wordRst w then 0 else s.phase
      script := [] }
  | .seq p => { s with pins := s.pins.idle, phase := p, script := [] }

end Sys2Proof.Machine
end

