-- ==== Sys2Proof/Machine/Step.lean ====
section
/-! DEFINITION. One step: the next line of the host, at an edge what the pins and `phase` select (R150). -/

namespace Sys2Proof.Machine

/-- One step of the machine (R150). -/
def step (s : State) : Host.Outcome State Fault Refusal :=
  match s.fetch with
  | .ok (i, t) => exec i t
  | .error e => .refused (decodeRefusal e)

/-- `s` with a word of the opcode table where the next step reads its operation: on the pins, or in `phase`. -/
def State.withFetchWord (s : State) (nbits w : Nat) : State := s.present (tableEncoding nbits w)

end Sys2Proof.Machine
end

