-- ==== Sys2Proof/Safety.lean ====
section
/-! DEFINITION. What counts as a safe run, in the terms the statements use: legal states, the invariant of the reachable states, a transaction in progress. -/

namespace Sys2Proof.Machine

/-- The 18 values of `phase` for which the spec defines a step (R30, R43 (a)). -/
abbrev State.Legal (s : State) : Prop := s.phase.toNat ≤ 17

/-- What holds in every state reachable from reset, as far as one state shows it: `phase` is legal (R43 (a)), `busy` and
`done` are never both 1 (R43 (b)), and while `done = 1` the output is the final permutation of the pair that FINAL left
in `L`, `R` (R48, R156). -/
abbrev State.Inv (s : State) : Prop :=
  s.Legal ∧ ¬(s.busy = true ∧ s.done = true) ∧ (s.done = true → s.OUT = fp (joinHalves s.R s.L))

/-- The registers of a transaction that sampled `(p, key)`, at `phase = q` with `1 <= q <= 17` (R44, R161). -/
abbrev State.InTransaction (p key : Block) (q : Nat) (s : State) : Prop :=
  1 ≤ q ∧ q ≤ 17 ∧ s.phase.toNat = q ∧ (s.L, s.R) = pairAt p key (q - 1) ∧ (s.C, s.D) = cdState key (q - 1) ∧
    s.done = false

/-- The seven registers of the core agree (R25); the host's side may differ. -/
abbrev State.SameRegisters (s t : State) : Prop :=
  s.L = t.L ∧ s.R = t.R ∧ s.C = t.C ∧ s.D = t.D ∧ s.phase = t.phase ∧ s.OUT = t.OUT ∧ s.done = t.done

/-- The sixteen round micro-operations, `RND0` first (R155). -/
def roundOps : List Instr :=
  [.rnd0, .rnd1, .rnd2, .rnd3, .rnd4, .rnd5, .rnd6, .rnd7, .rnd8, .rnd9, .rnd10, .rnd11, .rnd12, .rnd13, .rnd14,
   .rnd15]

/-- The eighteen micro-operations, in the order of their `phase` values 0 to 17 (R72). -/
def microOps : List Instr := .idle :: (roundOps ++ [.final])

/-- The eight S-box operations on one chunk, `SBOX_0` first (R125). -/
def sboxOps (x : Chunk) : List Instr :=
  [.sbox0 x, .sbox1 x, .sbox2 x, .sbox3 x, .sbox4 x, .sbox5 x, .sbox6 x, .sbox7 x]

end Sys2Proof.Machine
end

