-- ==== Sys2Proof/Certificates/Slice0/Obligations.lean ====
section
/-! DEFINITION. The statements for the provers, file by file of spec/: encodings, reset and commands, micro-operations, function units, pipeline, transactions, invariants, host side. -/

open Sys2Proof Sys2Proof.Machine

/-! ## Decoding (30_encoding.md) -/

/-- R68: the table of format `CTRL`; R75: at a reserved `phase` only RESET is a command. That `rst = 0` there decodes to the
error `reservedPhase` is log entry 4 (DEDUCED). -/
def Obligations.ControlPinsDecode : Prop :=
  ∀ (phase : Phase) (start : Bool) (b k : Block),
    decodeCtrl phase true start b k = .ok .reset ∧
    (phase.toNat = 0 → decodeCtrl phase false true b k = .ok (.start b k)) ∧
    (phase.toNat = 0 → decodeCtrl phase false false b k = .ok .nop) ∧
    (1 ≤ phase.toNat ∧ phase.toNat ≤ 17 → decodeCtrl phase false start b k = .ok .nop) ∧
    (18 ≤ phase.toNat → decodeCtrl phase false start b k = .error .reservedPhase)

/-- R72: each legal `phase` selects its own micro-operation, `SHIFT` has the row's value, and the micro-operation leaves
the row's next `phase`; R75: the other values select none (the error is log entry 4). -/
def Obligations.PhaseSelectsMicroOperation : Prop :=
  (∀ p : Phase, 18 ≤ p.toNat → decodeSeq p = .error .reservedPhase) ∧
  (∀ q < 18, decodeSeq (BitVec.ofNat 5 q) = .ok (microOps.getD q .nop)) ∧
  (List.range 16).map (fun i => shiftAmount (shiftAt i)) = [1, 1, 2, 2, 2, 2, 2, 2, 1, 2, 2, 2, 2, 2, 2, 1] ∧
  ∀ q < 18, ∀ s : State, s.phase = BitVec.ofNat 5 q → s.pins.rst = false →
    ∃ t, exec (microOps.getD q .nop) s = .next t ∧
      t.phase.toNat = if q = 0 then (if s.pins.start then 1 else 0) else if q = 17 then 0 else q + 1

/-- The words of the opcode table, written out from R68 and R72, decode to their operations. Which of the two formats a
byte 0..3 is read in is the model's choice (log entry 9). -/
def Obligations.TableWordsDecode : Prop :=
  decodeTableWord 8 0b10 = some .reset ∧ decodeTableWord 8 0b11 = some .reset ∧
  decodeTableWord 8 0b01 = some (.start 0 0) ∧ decodeTableWord 8 0b00 = some .nop ∧
  decodeTableWord 5 0b00000 = some .idle ∧ decodeTableWord 5 0b00001 = some .rnd0 ∧
  decodeTableWord 8 0b00100 = some .rnd3 ∧ decodeTableWord 8 0b01111 = some .rnd14 ∧
  decodeTableWord 8 0b10000 = some .rnd15 ∧ decodeTableWord 8 0b10001 = some .final ∧
  decodeTableWord 8 0b10010 = none

/-- Decoding an operation's encoding gives it back with every operand, at every `phase` at which the encoding means it. -/
def Obligations.DecodeInvertsEncode : Prop :=
  ∀ (i : Instr) (e : Encoding) (p : Phase), i.wellFormed = true → encode i = some e → encodedAt i p = true →
    decodeWord p e = .ok i

/-- No pin of a control word is dropped: decoding it is decoding its pins; and a sequencer word that decodes is its
operation's own encoding. -/
def Obligations.EncodingsLoseNothing : Prop :=
  (∀ (p : Phase) (rst start : Bool) (b k : Block),
    decodeWord p (.ctrl (controlWord rst start b k)) = decodeCtrl p rst start b k) ∧
  (∀ (p q : Phase) (i : Instr), decodeWord q (.seq p) = .ok i → encode i = some (.seq p))

/-! ## The step, RESET and the host commands (10_state.md, 45_sequencer_and_commands.md) -/

/-- A step runs what the pins and `phase` decode to (R150); an `edge` line first puts its levels on the pins. The pins and lines
in the state are log entry 1. -/
def Obligations.StepRunsDecodedOperation : Prop :=
  (∀ (s : State) (i : Instr), s.script = [] →
    decodeEdge s.phase s.pins.rst s.pins.start s.pins.blockIn s.pins.keyIn = .ok i → step s = exec i s) ∧
  (∀ (s : State) (p : Pins) (rest : List Line) (i : Instr), s.script = .edge p :: rest →
    decodeEdge s.phase p.rst p.start p.blockIn p.keyIn = .ok i →
      step s = exec i { s with pins := p, script := rest }) ∧
  (∀ (s : State) (rest : List Line), s.script = .wait :: rest → step s = exec .wait { s with script := rest }) ∧
  (∀ (s : State) (rest : List Line), s.script = .read :: rest → step s = exec .read { s with script := rest })

/-- R150, R176: which rule applies at an edge, with the complete effect of each (R151 to R156). The refusal at a reserved
`phase` (R75) is log entry 4 (DEDUCED). -/
def Obligations.EdgeFollowsPriority : Prop :=
  ∀ (s : State) (p : Pins) (rest : List Line), s.script = .edge p :: rest →
    step s =
      if p.rst = true then
        .next { s with phase := 0, done := false, OUT := 0, L := 0, R := 0, C := 0, D := 0, pins := p, script := rest }
      else if s.phase.toNat = 0 ∧ p.start = true then
        .next { s with L := leftHalf (ip p.blockIn), R := rightHalf (ip p.blockIn), C := leftKeyHalf (pc1 p.keyIn),
                       D := rightKeyHalf (pc1 p.keyIn), phase := 1, done := false, pins := p, script := rest }
      else if s.phase.toNat = 0 then .next { s with pins := p, script := rest }
      else if s.phase.toNat ≤ 16 then
        let n := shiftAt (s.phase.toNat - 1)
        let c := rotl28 s.C n
        let d := rotl28 s.D n
        .next { s with L := s.R, R := s.L ^^^ feistel s.R (pc2 (joinKeyHalves c d)), C := c, D := d,
                       phase := s.phase + 1, pins := p, script := rest }
      else if s.phase.toNat = 17 then
        .next { s with OUT := fp (joinHalves s.R s.L), done := true, phase := 0, pins := p, script := rest }
      else .refused .reservedPhase

/-- R151: RESET leaves every register 0, from any state whatever and whatever the other pins are. -/
def Obligations.ResetClearsEveryRegister : Prop :=
  (∀ s : State,
    exec .reset s = .next { s with phase := 0, done := false, OUT := 0, L := 0, R := 0, C := 0, D := 0 }) ∧
  (∀ (s : State) (p : Pins) (rest : List Line), s.script = .edge p :: rest → p.rst = true →
    step s = .next { s with phase := 0, done := false, OUT := 0, L := 0, R := 0, C := 0, D := 0,
                            pins := p, script := rest })

/-- R46: the value of every register after an edge with `rst = 1` and in `State.reset`, and what the pins show then. -/
def Obligations.ResetStateValues : Prop :=
  State.reset.phase = 0 ∧ State.reset.done = false ∧ State.reset.OUT = 0 ∧ State.reset.L = 0 ∧ State.reset.R = 0 ∧
  State.reset.C = 0 ∧ State.reset.D = 0 ∧ State.reset.busy = false ∧ State.reset.blockOut = 0 ∧
  ∀ (s : State) (p : Pins) (rest : List Line), s.script = .edge p :: rest → p.rst = true →
    ∃ t, step s = .next t ∧ State.SameRegisters t State.reset ∧ t.busy = false ∧ t.blockOut = 0

/-- R152: an accepted START loads the permuted block and the parity-dropped key, sets `phase` to 1, clears `done` and
keeps `OUT`. -/
def Obligations.StartLoadsOperands : Prop :=
  ∀ (s : State) (b k : Block), s.phase = 0 →
    exec (.start b k) s =
      .next { s with L := (ip b).extractLsb' 32 32, R := (ip b).extractLsb' 0 32,
                     C := (pc1 k).extractLsb' 28 28, D := (pc1 k).extractLsb' 0 28, phase := 1, done := false }

/-- R153, R197: at an edge with `phase` in 1..17 a `start` and the operand pins change nothing: any two such edges without
reset leave the same registers, and a START there is a NOP. -/
def Obligations.StartWhileBusyIsIgnored : Prop :=
  (∀ (s : State) (b k : Block), 1 ≤ s.phase.toNat → s.phase.toNat ≤ 17 →
    ∃ t, exec (.start b k) s = .next t ∧ exec .nop s = .next t) ∧
  (∀ (s : State) (p q : Pins) (rest : List Line), 1 ≤ s.phase.toNat → s.phase.toNat ≤ 17 → p.rst = false →
    q.rst = false →
    ∃ t : State, step { s with script := .edge p :: rest } = .next { t with pins := p } ∧
      step { s with script := .edge q :: rest } = .next { t with pins := q })

/-- R153: what NOP does is decided by `phase` alone: IDLE holds every register, else the round or FINAL. -/
def Obligations.NopDoesWhatPhaseSelects : Prop :=
  ∀ s : State,
    (s.phase.toNat = 0 → exec .nop s = .next s) ∧
    (∀ i < 16, s.phase.toNat = i + 1 → s.pins.rst = false → exec .nop s = exec (roundOps.getD i .nop) s) ∧
    (s.phase.toNat = 17 → s.pins.rst = false → exec .nop s = exec .final s) ∧
    (s.phase.toNat ≤ 17 → ∃ t, exec .nop s = .next t)

/-! ## The micro-operations -/

/-- R72, R152, R153: IDLE performs START if `start = 1`, else nothing. -/
def Obligations.IdleHoldsOrStarts : Prop :=
  ∀ s : State, s.phase = 0 → s.pins.rst = false →
    (s.pins.start = false → exec .idle s = .next s) ∧
    (s.pins.start = true → exec .idle s = exec (.start s.pins.blockIn s.pins.keyIn) s ∧
      ∃ t, exec .idle s = .next t ∧ t.phase = 1 ∧ t.done = false ∧ t.OUT = s.OUT)

/-- R154: the sixteen round micro-operations, each from its own `phase` value. -/
def Obligations.RoundMicroOperations : Prop :=
  ∀ i < 16, ∀ s : State, s.phase.toNat = i + 1 → s.pins.rst = false →
    let n := [Shift.one, .one, .two, .two, .two, .two, .two, .two, .one, .two, .two, .two, .two, .two, .two, .one].getD i .one
    let c := rotl28 s.C n
    let d := rotl28 s.D n
    exec (roundOps.getD i .nop) s =
      .next { s with L := s.R, R := s.L ^^^ feistel s.R (pc2 (joinKeyHalves c d)), C := c, D := d,
                     phase := BitVec.ofNat 5 (i + 2) }

/-- R156: FINAL writes the final permutation of `R ‖ L`, sets `done`, returns to IDLE and leaves `L`, `R`, `C`, `D`. -/
def Obligations.FinalDeliversCiphertext : Prop :=
  ∀ s : State, s.phase = 17 → s.pins.rst = false →
    exec .final s = .next { s with OUT := fp (s.R ++ s.L), done := true, phase := 0 }

/-- R154, R156, R72: a micro-operation at an edge that does not select it is given no meaning: it is refused by name
(the model's choice of outcome, log entry 5). -/
def Obligations.MicroOperationsNeedTheirPhase : Prop :=
  ∀ q < 18, ∀ s : State, ¬(s.phase.toNat = q ∧ s.pins.rst = false) →
    exec (microOps.getD q .nop) s = .refused .notSelected

/-- R75: from a reserved `phase` only RESET has a defined step. Every other edge, with a line or with the held pins, is
refused, and so are the host's NOP, START, `ENCRYPT <block>, <key>`, `WAIT` and `READ` (log entries 4 and 15, DEDUCED). -/
def Obligations.ReservedPhaseHasOnlyReset : Prop :=
  ∀ s : State, 18 ≤ s.phase.toNat →
    (∀ (p : Pins) (rest : List Line), (s.script = .edge p :: rest ∨ (s.script = [] ∧ p = s.pins)) →
      (p.rst = true → ∃ t, step s = .next t ∧ t.phase = 0 ∧ t.done = false ∧ t.OUT = 0 ∧ t.L = 0 ∧ t.R = 0 ∧ t.C = 0 ∧
        t.D = 0) ∧
      (p.rst = false → step s = .refused .reservedPhase)) ∧
    (∀ rest : List Line, (s.script = .wait :: rest ∨ s.script = .read :: rest) → step s = .refused .reservedPhase) ∧
    exec .nop s = .refused .reservedPhase ∧
    (∀ b k, exec (.start b k) s = .refused .reservedPhase ∧ exec (.encryptScript b k) s = .refused .reservedPhase) ∧
    exec .wait s = .refused .reservedPhase ∧ exec .read s = .refused .reservedPhase

/-! ## The permutation engine (41_permutation_engine.md) -/

/-- R99: `PERM` with a well-formed table answers a vector of the table's length whose position i is input position
`T[i]`, and changes nothing else. -/
def Obligations.PermSelectsPositions : Prop :=
  ∀ (s : State) (table : List Nat) (win : Nat) (v : BitVec win), (∀ t ∈ table, 1 ≤ t ∧ t ≤ win) →
    ∃ out : BitVec table.length, exec (.perm table win v) s = .next { s with answer := .bits table.length out } ∧
      ∀ i, 1 ≤ i → i ≤ table.length → out.getLsbD (table.length - i) = v.getLsbD (win - table.getD (i - 1) 0)

/-- R101, R171: a table with an entry outside 1..Win is a configuration error that names the table and the first such
entry; so does the static check of a table record, which reports nothing exactly where its six tables are well formed, and
the six tables of the hardware pass it. That `PERM` itself stops, by a refusal and not a fault, is the model's choice (log
entry 7; U4 asks for `refuse`). -/
def Obligations.PermRejectsBadTables : Prop :=
  (∀ (s : State) (table : List Nat) (win : Nat) (v : BitVec win), (∃ t ∈ table, t < 1 ∨ t > win) →
    ∃ i, exec (.perm table win v) s = .refused (.configurationError ⟨.given table, i⟩) ∧ 1 ≤ i ∧ i ≤ table.length ∧
      (table.getD (i - 1) 0 < 1 ∨ table.getD (i - 1) 0 > win) ∧
      ∀ j, 1 ≤ j → j < i → 1 ≤ table.getD (j - 1) 0 ∧ table.getD (j - 1) 0 ≤ win) ∧
  (∀ (T : Config.Tables) (id : TableId) (i : Nat), tablesCheck T = some ⟨id, i⟩ →
    ∃ (table : List Nat) (win : Nat),
      (id, table, win) ∈ [(TableId.ip, T.ip, 64), (.fp, T.fp, 64), (.pc1, T.pc1, 64), (.pc2, T.pc2, 56), (.e, T.e, 32),
        (.p, T.p, 32)] ∧
      1 ≤ i ∧ i ≤ table.length ∧ (table.getD (i - 1) 0 < 1 ∨ table.getD (i - 1) 0 > win) ∧
      ∀ j, 1 ≤ j → j < i → 1 ≤ table.getD (j - 1) 0 ∧ table.getD (j - 1) 0 ≤ win) ∧
  (∀ T : Config.Tables, tablesCheck T = none ↔
    (∀ t ∈ T.ip ++ T.fp ++ T.pc1, 1 ≤ t ∧ t ≤ 64) ∧ (∀ t ∈ T.pc2, 1 ≤ t ∧ t ≤ 56) ∧
      (∀ t ∈ T.e ++ T.p, 1 ≤ t ∧ t ≤ 32)) ∧
  tablesCheck tables = none

/-- R103 to R108: the six instances answer, position by position, what their tables name, and change nothing else. -/
def Obligations.PermutationUnitsFollowTables : Prop :=
  ∀ s : State,
    (∀ v : Block, ∃ out : Block, exec (.ip v) s = .next { s with answer := .bits 64 out } ∧
      ∀ i, 1 ≤ i → i ≤ 64 → out.getLsbD (64 - i) = v.getLsbD (64 - ipTable.getD (i - 1) 0)) ∧
    (∀ v : Block, ∃ out : Block, exec (.fp v) s = .next { s with answer := .bits 64 out } ∧
      ∀ i, 1 ≤ i → i ≤ 64 → out.getLsbD (64 - i) = v.getLsbD (64 - fpTable.getD (i - 1) 0)) ∧
    (∀ v : Block, ∃ out : Pair56, exec (.pc1 v) s = .next { s with answer := .bits 56 out } ∧
      ∀ i, 1 ≤ i → i ≤ 56 → out.getLsbD (56 - i) = v.getLsbD (64 - pc1Table.getD (i - 1) 0)) ∧
    (∀ v : Pair56, ∃ out : Subkey, exec (.pc2 v) s = .next { s with answer := .bits 48 out } ∧
      ∀ i, 1 ≤ i → i ≤ 48 → out.getLsbD (48 - i) = v.getLsbD (56 - pc2Table.getD (i - 1) 0)) ∧
    (∀ v : Half, ∃ out : Subkey, exec (.expand v) s = .next { s with answer := .bits 48 out } ∧
      ∀ i, 1 ≤ i → i ≤ 48 → out.getLsbD (48 - i) = v.getLsbD (32 - eTable.getD (i - 1) 0)) ∧
    (∀ v : Half, ∃ out : Half, exec (.pbox v) s = .next { s with answer := .bits 32 out } ∧
      ∀ i, 1 ≤ i → i ≤ 32 → out.getLsbD (32 - i) = v.getLsbD (32 - pTable.getD (i - 1) 0))

/-- R102: the laws of `PERM` for every well-formed table. -/
def Obligations.PermLaws : Prop :=
  ∀ (table : List Nat) (win : Nat), tableWellFormed table win = true →
    (∀ a b : BitVec win, permute table.length table (a ^^^ b) =
      permute table.length table a ^^^ permute table.length table b) ∧
    permute table.length table (0 : BitVec win) = 0 ∧
    (∀ a : BitVec win, permute table.length table (~~~a) = ~~~permute table.length table a) ∧
    (∀ (inverse : List Nat) (a : BitVec win), table.Perm (List.range' 1 win) → inverse.length = win →
      (∀ i, 1 ≤ i → i ≤ win → inverse.getD (table.getD (i - 1) 0 - 1) 0 = i) →
      permute win inverse (permute win table a) = a)

/-- R91: the properties (a) to (h) of the tables. -/
def Obligations.TableProperties : Prop :=
  tablesCheck tables = none ∧
  (ipTable.Perm (List.range' 1 64) ∧ fpTable.Perm (List.range' 1 64) ∧
    ∀ i, 1 ≤ i → i ≤ 64 → fpTable.getD (ipTable.getD (i - 1) 0 - 1) 0 = i ∧ ipTable.getD (fpTable.getD (i - 1) 0 - 1) 0 = i) ∧
  (pc1Table.length = 56 ∧ pc1Table.Nodup ∧
    ∀ t, t ∈ pc1Table ↔ (1 ≤ t ∧ t ≤ 64 ∧ t ∉ [8, 16, 24, 32, 40, 48, 56, 64])) ∧
  (pc2Table.length = 48 ∧ pc2Table.Nodup ∧
    (∀ t, t ∈ pc2Table ↔ (1 ≤ t ∧ t ≤ 56 ∧ t ∉ [9, 18, 22, 25, 35, 38, 43, 54])) ∧
    (∀ t ∈ pc2Table.take 24, t ≤ 28) ∧ (∀ t ∈ pc2Table.drop 24, 29 ≤ t)) ∧
  ((∀ t, 1 ≤ t → t ≤ 32 →
      eTable.count t = if t ∈ [1, 4, 5, 8, 9, 12, 13, 16, 17, 20, 21, 24, 25, 28, 29, 32] then 2 else 1) ∧
    (∀ k < 8, ∀ j < 6, eTable.getD (6 * k + j) 0 =
      if 4 * k + j = 0 then 32 else if 4 * k + j = 33 then 1 else 4 * k + j)) ∧
  pTable.Perm (List.range' 1 32) ∧
  (∀ k < 8, ∀ row < 4, ((tables.sbox.getD k []).getD row []).Perm (List.range 16)) ∧
  (shiftTable.map shiftAmount).sum = 28

/-- R82 to R90: the S-box units read by chunk address hold the digits of R90. -/
def Obligations.SboxesHoldRomListing : Prop :=
  ∀ k < 8, ∀ a : Chunk, some (sbox k a).toNat = hexDigit? ((([
    "E04FD7142EF2BD813AA66CCB599503784F1CE882D46921B7F5CB937E3AA0560D",
    "F31D84E76FB2384E9C7021DAC6095BA50DE87AB1A34FD4125B86C76C90352EF9",
    "AD0790E96334F65A12D8C57EBC4B2F81D16A4D9086F93807B41F2EC35BA5E27C",
    "7DD8EB35066F90A31427825CB1CA4EF9A36F9006CAB17DD8F91435EB5C27824E",
    "2ECB421C74A7BD6185503FFAD309E8964B281CB7A1DE728DF69FC0596A3405E3",
    "CA1FA4F2972C698506D13D4EE07B53B894E3F25C2985CF3A7B0E41A716D0B86D",
    "4DB02BE7F40981DA3EC3957C52AF6816164BBDD8C1347AE7A9F5608F0E52932C",
    "D12F8D486AF3B714AC9536EB500EC97272B14E1794CAE82D0F6CA9D0F335568B"].map String.toList).getD k []).getD a.toNat 'x')

/-- R104, R91 (b): `FP` and `IP` undo each other on every 64-bit value. -/
def Obligations.FinalAndInitialPermutationInverse : Prop :=
  ∀ v : Block, fp (ip v) = v ∧ ip (fp v) = v

/-- R106, R91 (d): the first 24 bits of `PC2` depend on C only, the last 24 on D only. -/
def Obligations.CompressionKeepsHalvesApart : Prop :=
  (∀ c d d' : KeyHalf, (pc2 (joinKeyHalves c d)).extractLsb' 24 24 = (pc2 (joinKeyHalves c d')).extractLsb' 24 24) ∧
  (∀ c c' d : KeyHalf, (pc2 (joinKeyHalves c d)).extractLsb' 0 24 = (pc2 (joinKeyHalves c' d)).extractLsb' 0 24)

/-- R107, R91 (e): chunk k of `EXPAND(r)` is positions 4k .. 4k+5 of `r`, with 0 read as 32 and 33 as 1. -/
def Obligations.ExpansionChunks : Prop :=
  ∀ (r : Half) (k : Nat), k < 8 → ∀ j < 6,
    pos (chunk (expand r) k) (j + 1) =
      pos r (if 4 * k + j = 0 then 32 else if 4 * k + j = 33 then 1 else 4 * k + j)

/-- R108: `PBOX` is a bijection. -/
def Obligations.RoundOutputPermutationBijective : Prop :=
  ∀ v : Half, ∃ s : Half, pbox s = v ∧ ∀ s' : Half, pbox s' = v → s' = s

/-! ## The key scheduler (42_key_scheduler.md) -/

/-- R114: `ROTL28` answers the rotation within 28 bits, position by position, changes nothing else, and two rotations by
1 are one by 2. -/
def Obligations.RotationWithinTwentyEightBits : Prop :=
  (∀ (s : State) (v : KeyHalf) (n : Shift), ∃ out : KeyHalf,
    exec (.rotl28 v n) s = .next { s with answer := .bits 28 out } ∧
    (∀ p, shiftAmount n < p → p ≤ 28 → pos out (p - shiftAmount n) = pos v p) ∧
    (∀ p, 1 ≤ p → p ≤ shiftAmount n → pos out (28 - shiftAmount n + p) = pos v p) ∧
    out = ((v <<< shiftAmount n) ||| (v >>> (28 - shiftAmount n)))) ∧
  (∀ v : KeyHalf, rotl28 v .one = v.extractLsb' 0 27 ++ v.extractLsb' 27 1 ∧
    rotl28 v .two = v.extractLsb' 0 26 ++ v.extractLsb' 26 2 ∧
    rotl28 (rotl28 v .one) .one = rotl28 v .two) ∧
  rotl28 0x8000000 .one = 0x0000001 ∧ rotl28 0x8000000 .two = 0x0000002 ∧ rotl28 0x4000000 .two = 0x0000001 ∧
  rotl28 0xC000000 .two = 0x0000003 ∧ (∀ n, rotl28 0 n = 0) ∧ (∀ n, rotl28 0xFFFFFFF n = 0xFFFFFFF) ∧
  rotl28 0xF0CCAAF .one = 0xE19955F

/-- R116: `KS` answers sixteen subkeys in round order, subkey i being `PC2` of the halves after i + 1
accumulated rotations, and changes nothing else. -/
def Obligations.KeyScheduleAccumulates : Prop :=
  (∀ (s : State) (key : Block), ∃ K : List Subkey, exec (.ks key) s = .next { s with answer := .subkeys K } ∧
    K.length = 16 ∧
    ∀ i < 16, K.getD i 0 = pc2 (joinKeyHalves (cdState key (i + 1)).1 (cdState key (i + 1)).2)) ∧
  (∀ key : Block, cdState key 0 = (leftKeyHalf (pc1 key), rightKeyHalf (pc1 key)) ∧
    ∀ i < 16, cdState key (i + 1) =
      (rotl28 (cdState key i).1 (shiftAt i), rotl28 (cdState key i).2 (shiftAt i)))

/-- R118: after round 15 the halves are back, `K[15]` is taken from the unrotated halves, and each bit of each subkey is one
bit of the parity-dropped key. -/
def Obligations.SubkeyBitsAreKeyBits : Prop :=
  ∀ key : Block,
    cdState key 16 = cdState key 0 ∧ subkey key 15 = pc2 (joinKeyHalves (cdState key 0).1 (cdState key 0).2) ∧
    ∀ i < 16, ∀ j, 1 ≤ j → j ≤ 48 →
      let total := [1, 2, 4, 6, 8, 10, 12, 14, 15, 17, 19, 21, 23, 25, 27, 28].getD i 0
      let source := pc2Table.getD (j - 1) 0
      pos (subkey key i) j =
        if source ≤ 28 then pos ((pc1 key).extractLsb' 28 28) ((source - 1 + total) % 28 + 1)
        else pos ((pc1 key).extractLsb' 0 28) ((source - 29 + total) % 28 + 1)

/-- R120: the laws of `KS`: linear over xor, complement, and its fixed examples. -/
def Obligations.KeyScheduleLaws : Prop :=
  ∀ i < 16,
    (∀ a b : Block, (ks (a ^^^ b)).getD i 0 = (ks a).getD i 0 ^^^ (ks b).getD i 0) ∧
    (∀ a : Block, (ks (~~~a)).getD i 0 = ~~~(ks a).getD i 0) ∧
    (ks 0).getD i 0 = 0 ∧
    (ks 0xFFFFFFFFFFFFFFFF).getD i 0 = 0xFFFFFFFFFFFF ∧ (ks 0xFEFEFEFEFEFEFEFE).getD i 0 = 0xFFFFFFFFFFFF ∧
    (ks 0x1F1F1F1F0E0E0E0E).getD i 0 = 0x000000FFFFFF

/-- R113: the low bit of each key byte influences no subkey and no ciphertext. -/
def Obligations.ParityBitsIgnored : Prop :=
  ∀ m : Block, m &&& 0xFEFEFEFEFEFEFEFE = 0 →
    (∀ k : Block, pc1 (k ^^^ m) = pc1 k ∧ ks (k ^^^ m) = ks k) ∧
    (∀ p k : Block, encrypt p (k ^^^ m) = encrypt p k)

/-! ## The round function (43_round_function.md) -/

/-- R125: each S-box unit answers the entry its row (first and last bit) and column (middle four bits) name, and changes
nothing else. -/
def Obligations.SboxUnitsReadTheirTables : Prop :=
  ∀ (s : State) (x : Chunk) (k : Nat), k < 8 →
    exec ((sboxOps x).getD k .nop) s =
      .next { s with answer := .bits 4 (BitVec.ofNat 4
        ((((([sbox0Table, sbox1Table, sbox2Table, sbox3Table, sbox4Table, sbox5Table, sbox6Table, sbox7Table].getD k [])).getD
          (2 * (x.toNat / 32) + x.toNat % 2) []).getD (x.toNat / 2 % 16) 0))) }

/-- R124, R126: `SUB` answers the eight nibbles in chunk order, each from the S-box of its own index, and changes nothing
else. -/
def Obligations.SubstitutionIsNibblewise : Prop :=
  (∀ (s : State) (x : Subkey), ∃ out : Half, exec (.sub x) s = .next { s with answer := .bits 32 out } ∧
    ∀ k < 8, nibble out k = sbox k (x.extractLsb' (42 - 6 * k) 6)) ∧
  (∀ (x : Subkey) (k : Nat), k < 8 → ∀ j, 1 ≤ j → j ≤ 6 → pos (chunk x k) j = pos x (6 * k + j))

/-- R122, R123: `F` answers expansion, key mixing, substitution and round output permutation in this order, and
changes nothing else; the key mixing is position by position. -/
def Obligations.RoundFunctionSteps : Prop :=
  (∀ (s : State) (r : Half) (k : Subkey),
    exec (.f r k) s = .next { s with answer := .bits 32 (pbox (sub (expand r ^^^ k))) }) ∧
  (∀ (r : Half) (k : Subkey) (j : Nat), pos (expand r ^^^ k) j = (pos (expand r) j ^^ pos k j)) ∧
  feistel 0xF0AAF0AA 0x1B02EFFC7072 = 0x234AA9BB

/-- R129 (a), (b): `F` depends on its operands only through `EXPAND(r) xor k`, and complementing both leaves it. -/
def Obligations.RoundFunctionComplement : Prop :=
  (∀ (r r' : Half) (k k' : Subkey), expand r ^^^ k = expand r' ^^^ k' → feistel r k = feistel r' k') ∧
  (∀ (r : Half) (k : Subkey), expand (~~~r) = ~~~expand r ∧ feistel (~~~r) (~~~k) = feistel r k) ∧
  feistel 0 0 = 0xD8D8DBBC ∧ feistel 0xFFFFFFFF 0xFFFFFFFFFFFF = 0xD8D8DBBC ∧ feistel 0xFFFFFFFF 0 = 0x38DBF9CB ∧
  feistel 0 0xFFFFFFFFFFFF = 0x38DBF9CB ∧ feistel 0x12345678 0xABCDEF012345 = 0x8BA99C9B

/-! ## The pipeline (44_feistel_pipeline.md) -/

/-- R140: `ROUND` answers `(r, l xor F(r, k))`, changes nothing else, and is undone by `ROUNDINV`, which it undoes. -/
def Obligations.RoundIsInvertible : Prop :=
  (∀ (s : State) (l r : Half) (k : Subkey),
    exec (.round l r k) s = .next { s with answer := .halves r (l ^^^ feistel r k) }) ∧
  (∀ (l r : Half) (k : Subkey),
    roundInverse (feistelRound l r k).1 (feistelRound l r k).2 k = (l, r) ∧
    feistelRound (roundInverse l r k).1 (roundInverse l r k).2 k = (l, r))

/-- R138, R139, R142, R143: `ENCRYPT` answers the final permutation of `R_16 ‖ L_16`, the pairs being sixteen rounds from
the split of `IP(p)` with the subkeys of `KS(key)` in order, and changes nothing else. -/
def Obligations.EncryptUnitRunsSixteenRounds : Prop :=
  ∀ (s : State) (p key : Block), ∃ pair : Nat → Half × Half,
    pair 0 = ((ip p).extractLsb' 32 32, (ip p).extractLsb' 0 32) ∧
    (∀ i < 16, pair (i + 1) = ((pair i).2, (pair i).1 ^^^ feistel (pair i).2 ((ks key).getD i 0))) ∧
    exec (.encrypt p key) s = .next { s with answer := .bits 64 (fp ((pair 16).2 ++ (pair 16).1)) }

/-- The source's known-answer vector and further vectors of 95_test_vectors.md, section 2.5. -/
def Obligations.KnownAnswerVectors : Prop :=
  encrypt 0x0123456789ABCDEF 0x133457799BBCDFF1 = 0x85E813540F0AB405 ∧
  encrypt 0x0000000000000000 0x0000000000000000 = 0x8CA64DE9C1B123A7 ∧
  encrypt 0x4E6F772069732074 0x0123456789ABCDEF = 0x3FA40E8A984D4815 ∧
  encrypt 0x8787878787878787 0x0E329232EA6D0D73 = 0

/-- R148 (a): for each key `ENCRYPT` is a bijection on 64-bit values. -/
def Obligations.EncryptIsBijective : Prop :=
  ∀ key c : Block, ∃ p : Block, encrypt p key = c ∧ ∀ p' : Block, encrypt p' key = c → p' = p

/-- R148 (c): the complement law of `ENCRYPT`. -/
def Obligations.EncryptComplement : Prop :=
  ∀ p key : Block, encrypt (~~~p) (~~~key) = ~~~encrypt p key

/-- R149: the same algorithm with the subkeys in reverse order and the half swap kept inverts `ENCRYPT`. -/
def Obligations.ReversedSubkeysDecrypt : Prop :=
  ∀ p key : Block, decryptReference (encrypt p key) key = p

/-! ## Transactions (45_sequencer_and_commands.md, section 6) -/

/-- R161: after an accepted START and q - 1 further edges without reset, whatever the other pins are, `phase = q`, the
registers hold the pair and the key halves of step q - 1, `done = 0`, and `OUT` is what it was. -/
def Obligations.TransactionKeepsRegisters : Prop :=
  ∀ (s : State) (p key : Block) (edges : List Pins) (rest : List Line), s.phase.toNat = 0 → edges.length ≤ 16 →
    (∀ e ∈ edges, e.rst = false) →
    s.script = .edge (Pins.request p key) :: (edges.map Line.edge ++ rest) →
    ∃ t, Sys2Proof.core.run (edges.length + 1) s = .next t ∧ t.script = rest ∧
      t.phase.toNat = edges.length + 1 ∧ (t.L, t.R) = pairAt p key edges.length ∧
      (t.C, t.D) = cdState key edges.length ∧ t.done = false ∧ t.OUT = s.OUT

/-- R165, R160, R157: an accepted START and 17 further edges without reset, whatever the other pins are, leave `phase = 0`,
`done = 1` and `OUT = ENCRYPT(p, key)`; and any further edges without reset and without `start` keep them. -/
def Obligations.TransactionDeliversCiphertext : Prop :=
  ∀ (s : State) (p key : Block) (edges later : List Pins) (rest : List Line), s.phase.toNat = 0 → edges.length = 17 →
    (∀ e ∈ edges, e.rst = false) → (∀ e ∈ later, e.rst = false ∧ e.start = false) →
    s.script = .edge (Pins.request p key) :: (edges.map Line.edge ++ (later.map Line.edge ++ rest)) →
    ∃ t, Sys2Proof.core.run (18 + later.length) s = .next t ∧ t.script = rest ∧
      t.phase = 0 ∧ t.busy = false ∧ t.done = true ∧ t.blockOut = encrypt p key

/-- R162: inside a transaction the registers do not depend on `start`, `block_in`, `key_in`. -/
def Obligations.PinsInsideTransactionDoNotMatter : Prop :=
  ∀ (s t : State) (edges edges' : List Pins), State.SameRegisters s t → 1 ≤ s.phase.toNat → s.phase.toNat ≤ 17 →
    edges.length = edges'.length → edges.length + s.phase.toNat ≤ 18 →
    (∀ e ∈ edges, e.rst = false) → (∀ e ∈ edges', e.rst = false) →
    s.script = edges.map Line.edge → t.script = edges'.map Line.edge →
    ∃ u v, Sys2Proof.core.run edges.length s = .next u ∧ Sys2Proof.core.run edges.length t = .next v ∧
      State.SameRegisters u v

/-- R163: from every legal state and every input sequence without reset, `phase = 0` is reached within 17 edges. -/
def Obligations.IdleIsReachedWithinSeventeenEdges : Prop :=
  ∀ (s : State) (edges : List Pins) (rest : List Line), s.phase.toNat ≤ 17 → edges.length = 17 →
    (∀ e ∈ edges, e.rst = false) → s.script = edges.map Line.edge ++ rest →
    ∃ n ≤ 17, ∃ t, Sys2Proof.core.run n s = .next t ∧ t.phase = 0

/-- R164, R42: what a transaction leaves in `L`, `R`, `C`, `D`, `phase`, `OUT` and `done` depends on the operands at its
START edge alone: from any two idle states it is the same, whatever their registers hold. -/
def Obligations.TransactionsAreIndependent : Prop :=
  ∀ (s t : State) (p key : Block), s.phase.toNat = 0 → t.phase.toNat = 0 → s.script = encryptLines p key →
    t.script = encryptLines p key →
    ∃ u v, Sys2Proof.core.run 18 s = .next u ∧ Sys2Proof.core.run 18 t = .next v ∧ State.SameRegisters u v

/-! ## Invariants of the machine (10_state.md) -/

/-- R43 (a), (b), R48: the invariant of the reachable states is kept by every step, from every state that has it. -/
def Obligations.EveryStepKeepsInvariant : Prop :=
  ∀ s t : State, s.Inv → step s = .next t → t.Inv

/-- The state after reset has the invariant. -/
def Obligations.ResetStateHasInvariant : Prop := State.reset.Inv

/-- From a state with the invariant no step stops: the one refusal of a step, a reserved `phase`, is never met (R150, R172,
R186). -/
def Obligations.LegalStatesNeverStop : Prop :=
  ∀ s : State, s.phase.toNat ≤ 17 → ∃ t, step s = .next t ∧ t.phase.toNat ≤ 17

/-- R31, R32: at an edge `OUT` is written by RESET and FINAL alone, and `done` by RESET, an accepted START and FINAL alone,
each with the value the rules give. -/
def Obligations.OutputWriters : Prop :=
  ∀ (s t : State) (p : Pins) (rest : List Line), s.script = .edge p :: rest → step s = .next t →
    t.OUT = (if p.rst = true then 0 else if s.phase.toNat = 17 then fp (s.R ++ s.L) else s.OUT) ∧
    t.done = (if p.rst = true then false else if s.phase.toNat = 17 then true
      else if s.phase.toNat = 0 ∧ p.start = true then false else s.done)

/-- R43 (d), R153: from the reset state, edges without `start` leave every register as RESET leaves it. -/
def Obligations.NoRequestNoResult : Prop :=
  ∀ (s : State) (edges : List Pins) (rest : List Line), State.SameRegisters s State.reset →
    (∀ e ∈ edges, e.start = false ∨ e.rst = true) → s.script = edges.map Line.edge ++ rest →
    ∃ t, Sys2Proof.core.run edges.length s = .next t ∧ t.script = rest ∧ State.SameRegisters t State.reset

/-- R39, R99, R122, R138: no function unit, codec operation or READ writes a register, a pin or the script: only the
answer, the model's own field (log entry 2), changes. -/
def Obligations.UnitsWriteNoRegister : Prop :=
  ∀ (i : Instr) (s t : State), i.format ≠ .ctrl → i.format ≠ .seq → i ≠ .wait →
    (∀ b k, i ≠ .encryptScript b k) → exec i s = .next t → t = { s with answer := t.answer }

/-- No host command and no micro-operation changes the model's own fields: the pins and the script (log entry 1), which hold
what the host drives (R35, R92), and the answer (log entry 2). That a command through `exec` leaves the held pins alone is
log entry 5. The rules R151 to R156 name registers only among what they write. -/
def Obligations.CommandsWriteOnlyRegisters : Prop :=
  ∀ (i : Instr) (s t : State), (i.format = .ctrl ∨ i.format = .seq) → exec i s = .next t →
    t.pins = s.pins ∧ t.script = s.script ∧ t.answer = s.answer

/-! ## The host side (30_encoding.md R92, 40_bitcodec.md) -/

/-- R92, R165: from every legal state `ENCRYPT <block>, <key>` is the run of the 18 lines it expands to; in IDLE it leaves
`done = 1` and the ciphertext on `block_out`. That `exec` takes the 18 edges in one call is log entry 11. -/
def Obligations.EncryptScriptExpansion : Prop :=
  ∀ (s : State) (b k : Block), s.phase.toNat ≤ 17 →
    ∃ t, exec (.encryptScript b k) s = .next t ∧ t.script = s.script ∧ t.answer = s.answer ∧
      (s.phase.toNat = 0 → t.phase = 0 ∧ t.done = true ∧ t.blockOut = encrypt b k) ∧
      ∀ rest, ∃ u, Sys2Proof.core.run 18 { s with script := encryptLines b k ++ rest } = .next u ∧ u.script = rest ∧
        State.SameRegisters t u

/-- R92: `WAIT` repeats NOP until `done = 1`; during a transaction it ends with FINAL. Two clauses are the model's reading
(log entry 10, DEDUCED): that with `done = 1` at the start it takes no edge ("until" read as a test before each edge), and
that in IDLE without a result, where every register is kept, the line stays pending, which says that it never ends. -/
def Obligations.WaitRepeatsNop : Prop :=
  ∀ s : State, s.phase.toNat ≤ 17 →
    (s.done = true → exec .wait s = .next s) ∧
    (s.done = false → s.phase.toNat = 0 →
      exec .wait s = .next { s with pins := s.pins.idle, script := .wait :: s.script }) ∧
    (s.done = false → 1 ≤ s.phase.toNat →
      ∃ t u, exec .wait s = .next t ∧ t.done = true ∧ t.phase = 0 ∧ t.script = s.script ∧
        Sys2Proof.core.run (18 - s.phase.toNat) { s with script := nopScript (18 - s.phase.toNat) } = .next u ∧
        State.SameRegisters t u)

/-- R92, R36, R69: `READ` takes no edge: at every legal `phase` it samples `block_out`, `busy`, `done` and changes nothing
else; at a reserved one it is refused (R75; log entry 15, DEDUCED). `STAT` is `busy`, `done`. -/
def Obligations.ReadSamplesOutputPins : Prop :=
  ∀ s : State,
    (s.phase.toNat ≤ 17 →
      exec .read s = .next { s with answer := .sample s.OUT (decide (s.phase.toNat ≠ 0)) s.done }) ∧
    (18 ≤ s.phase.toNat → exec .read s = .refused .reservedPhase) ∧
    s.stat.getLsbD 1 = decide (s.phase.toNat ≠ 0) ∧ s.stat.getLsbD 0 = s.done

/-- R94, R97: `decode` answers the value left-zero-padded to the width where it fits and the text is hexadecimal (and 16
characters for a Block or key), and else is a `FormatError`, never a value. That `FormatError` is a refusal (R186) is log
entry 7 (DESIGN CHOICE); that every text at 64 bits is a Block's, so is never padded (C4), is log entry 12 (DEDUCED). -/
def Obligations.CodecDecodes : Prop :=
  ∀ (s : State) (target : CodecTarget) (width : Nat), (target = .width width ∨ (target = .block ∧ width = 64)) →
    (∀ v : Nat, v < 2 ^ width →
      exec (.decode (.integer v) target) s = .next { s with answer := .bits width (BitVec.ofNat width v) }) ∧
    (∀ v : Nat, 2 ^ width ≤ v → exec (.decode (.integer v) target) s = .refused .formatError) ∧
    (∀ chars : List Char, (∃ c ∈ chars, c ∉ "0123456789ABCDEFabcdef".toList) →
      exec (.decode (.text chars) target) s = .refused .formatError) ∧
    (∀ chars : List Char, width = 64 → chars.length ≠ 16 →
      exec (.decode (.text chars) target) s = .refused .formatError) ∧
    (∀ chars : List Char, (∀ c ∈ chars, c ∈ "0123456789ABCDEFabcdef".toList) → (width = 64 → chars.length = 16) →
      ∃ v, v < 16 ^ chars.length ∧
        (∀ j < chars.length, hexDigit? (chars.getD j 'x') = some (v / 16 ^ (chars.length - 1 - j) % 16)) ∧
        exec (.decode (.text chars) target) s =
          if v < 2 ^ width then .next { s with answer := .bits width (BitVec.ofNat width v) }
          else .refused .formatError)

/-- R95: `encode` answers, for a length that is a multiple of 4, one upper-case digit per four positions, leading zeros
kept, and changes nothing else; U10: any other length is refused (log entry 8, DEDUCED). -/
def Obligations.CodecEncodes : Prop :=
  (∀ (s : State) (digits : Nat) (v : BitVec (4 * digits)), ∃ chars : List Char,
    exec (.encode (4 * digits) v) s = .next { s with answer := .text chars } ∧ chars.length = digits ∧
    ∀ j < digits, chars.getD j 'x' = "0123456789ABCDEF".toList.getD (v.toNat / 16 ^ (digits - 1 - j) % 16) 'x') ∧
  (∀ (s : State) (bits : Nat) (v : BitVec bits), bits % 4 ≠ 0 → exec (.encode bits v) s = .refused .encodeLength)

/-- R96: decoding an encoded vector gives it back, and encoding a decoded text gives the text in upper case. -/
def Obligations.CodecRoundTrip : Prop :=
  (∀ (digits : Nat) (v : BitVec (4 * digits)),
    decodeText? (.text (encodeText v)) (.width (4 * digits)) = some v.toNat) ∧
  (∀ chars : List Char, (∀ c ∈ chars, c ∈ "0123456789ABCDEFabcdef".toList) →
    ∃ v, decodeText? (.text chars) (.width (4 * chars.length)) = some v ∧
      encodeText (BitVec.ofNat (4 * chars.length) v) = chars.map Char.toUpper)
end

