-- ==== Sys2Proof/Laws/Codec.lean ====
section
/-! SUPPORT. What `decode` accepts and answers, said once (R94, R97). -/

namespace Sys2Proof.Machine

@[simp] theorem lengthAccepted_integer (v : Nat) (target : CodecTarget) :
    lengthAccepted (.integer v) target = true := rfl

/-- Text is accepted at 64 bits with exactly 16 characters, at another width with any number (R97, C4). -/
@[simp] theorem lengthAccepted_text (chars : List Char) (target : CodecTarget) :
    lengthAccepted (.text chars) target = true ↔ (targetBits target = 64 → chars.length = 16) := by
  rw [lengthAccepted, decide_eq_true_eq, ← imp_iff_not_or]

/-- Everything `decode` can answer: the value of what it is given, where the length is accepted and the value fits. -/
theorem decodeText?_eq_some {x : CodecInput} {target : CodecTarget} {v : Nat} :
    decodeText? x target = some v ↔
      lengthAccepted x target = true ∧ codecValue? x = some v ∧ v < 2 ^ targetBits target := by
  unfold decodeText?
  cases lengthAccepted x target
  · simp
  · cases codecValue? x with
    | none => simp
    | some u =>
      by_cases h : u < 2 ^ targetBits target
      · simp only [h, ite_true, Option.some.injEq, true_and]
        exact ⟨fun e => ⟨e, e ▸ h⟩, And.left⟩
      · simp only [h, ite_true, ite_false, Option.some.injEq, true_and, reduceCtorEq, false_iff]
        rintro ⟨rfl, hv⟩
        exact h hv

end Sys2Proof.Machine
end

