-- ==== Sys2Proof/Laws/Permutation.lean ====
section
/-! SUPPORT. The one lemma about `PERM` that its users cite: output position j is input position `T[j]`; with it the laws of R102 in the form the six instances need. -/

namespace Sys2Proof.Machine

theorem bitsToNat_append (bs : List Bool) (b : Bool) : bitsToNat (bs ++ [b]) = 2 * bitsToNat bs + b.toNat := by
  simp [bitsToNat]

/-- The bits of the number a sequence writes, counted from its end. -/
theorem testBit_bitsToNat (bs : List Bool) (i : Nat) :
    (bitsToNat bs).testBit i = bs.reverse.getD i false := by
  induction bs using List.reverseRecOn generalizing i with
  | nil => simp [bitsToNat]
  | append_singleton bs b ih =>
    rw [bitsToNat_append]
    cases i with
    | zero => cases b <;> simp [Nat.testBit_zero]
    | succ i =>
      have h : (2 * bitsToNat bs + b.toNat) / 2 = bitsToNat bs := by cases b <;> simp <;> omega
      simp [Nat.testBit_succ, h, ih]

/-- Two vectors with the same positions are equal. -/
theorem eq_of_pos {w : Nat} {a b : BitVec w} (h : ∀ j, 1 ≤ j → j ≤ w → pos a j = pos b j) : a = b := by
  apply BitVec.eq_of_getLsbD_eq
  intro i hi
  have := h (w - i) (by omega) (by omega)
  simpa [pos, show w - (w - i) = i by omega] using this

/-- Output position j of `PERM` is input position `T[j]` (R99). -/
theorem pos_permute {n win : Nat} {table : List Nat} (hn : table.length = n) (v : BitVec win) {j : Nat} (h1 : 1 ≤ j)
    (h2 : j ≤ n) : pos (permute n table v) j = pos v (table.getD (j - 1) 0) := by
  subst hn
  have hlt : table.length - j < table.length := by omega
  have hi : table.length - 1 - (table.length - j) = j - 1 := by omega
  simp only [pos, permute, BitVec.getLsbD_ofNat, hlt, decide_true, Bool.true_and, testBit_bitsToNat]
  rw [List.getD_eq_getElem _ _ (by simp; omega), List.getElem_reverse, List.getElem_map,
    List.getD_eq_getElem _ _ (by omega)]
  simp [pos, hi]

@[simp] theorem pos_xor {w : Nat} (a b : BitVec w) (p : Nat) : pos (a ^^^ b) p = (pos a p ^^ pos b p) := by
  simp [pos]

theorem pos_not {w : Nat} (a : BitVec w) {p : Nat} (h1 : 1 ≤ p) (h2 : p ≤ w) : pos (~~~a) p = !pos a p := by
  simp [pos]; omega

@[simp] theorem pos_zero (w p : Nat) : pos (0#w) p = false := by simp [pos]

/-- The entries of a well-formed table are positions of the input (R101). -/
theorem tableWellFormed_getD {table : List Nat} {win : Nat} (h : tableWellFormed table win = true) {j : Nat}
    (hj : j < table.length) : 1 ≤ table.getD j 0 ∧ table.getD j 0 ≤ win := by
  rw [List.getD_eq_getElem _ _ hj]
  simpa using List.all_eq_true.mp h _ (List.getElem_mem hj)

/-- The check reports nothing exactly on well-formed tables (R101). -/
theorem firstBadEntry_none_iff (win : Nat) (table : List Nat) (i : Nat) :
    firstBadEntry win table i = none ↔ tableWellFormed table win = true := by
  induction table generalizing i with
  | nil => simp [firstBadEntry, tableWellFormed]
  | cons t rest ih =>
    simp only [firstBadEntry]
    split
    · next h => rw [ih]; simp [tableWellFormed, h]
    · next h => simp [tableWellFormed, h]

/-- What the check reports is the first bad entry (R101). -/
theorem firstBadEntry_some {win : Nat} {table : List Nat} {i k : Nat} (h : firstBadEntry win table i = some k) :
    i ≤ k ∧ k - i < table.length ∧ ¬(1 ≤ table.getD (k - i) 0 ∧ table.getD (k - i) 0 ≤ win) ∧
      ∀ j < k - i, 1 ≤ table.getD j 0 ∧ table.getD j 0 ≤ win := by
  induction table generalizing i with
  | nil => simp [firstBadEntry] at h
  | cons t rest ih =>
    simp only [firstBadEntry] at h
    split at h
    · next ht =>
      obtain ⟨h1, h2, h3, h4⟩ := ih h
      have hk : k - i = (k - (i + 1)) + 1 := by omega
      refine ⟨by omega, by simp; omega, by rw [hk]; simpa using h3, fun j hj => ?_⟩
      cases j with
      | zero => simpa using ht
      | succ j => simpa using h4 j (by omega)
    · next ht =>
      cases h
      simpa using ht

/-- The check of one table passes exactly the well-formed ones (R101). -/
theorem checkTable_none_iff (id : TableId) (table : List Nat) (win : Nat) :
    checkTable id table win = none ↔ tableWellFormed table win = true := by
  rw [← firstBadEntry_none_iff win table 1, checkTable]
  cases firstBadEntry win table 1 <;> simp

/-- What the check of one table reports: its name, and the index of its first bad entry (R101, R171). -/
theorem checkTable_some {id : TableId} {table : List Nat} {win : Nat} {error : ConfigurationError}
    (h : checkTable id table win = some error) :
    error.table = id ∧ firstBadEntry win table 1 = some error.index := by
  unfold checkTable at h
  split at h
  · next i hi => cases h; exact ⟨rfl, hi⟩
  · cases h

/-- The validation of a record passes exactly where each of its six tables is well formed (R101, R194). -/
theorem tablesCheck_none_iff (T : Config.Tables) :
    tablesCheck T = none ↔ ∀ entry ∈ permutationTables T, tableWellFormed entry.2.1 entry.2.2 = true := by
  simp [tablesCheck, List.findSome?_eq_none_iff, checkTable_none_iff]

/-- What the validation of a record reports comes from one of its six tables (R101, R171). -/
theorem tablesCheck_some {T : Config.Tables} {error : ConfigurationError} (h : tablesCheck T = some error) :
    ∃ entry ∈ permutationTables T, error.table = entry.1 ∧ firstBadEntry entry.2.2 entry.2.1 1 = some error.index := by
  obtain ⟨entry, hmem, he⟩ := List.exists_of_findSome?_eq_some h
  exact ⟨entry, hmem, checkTable_some he⟩

/-! The lengths of the six tables, and that all six pass the check (R91 (a)). -/

theorem ip_length : tables.ip.length = 64 := by decide
theorem fp_length : tables.fp.length = 64 := by decide
theorem pc1_length : tables.pc1.length = 56 := by decide
theorem pc2_length : tables.pc2.length = 48 := by decide
theorem e_length : tables.e.length = 48 := by decide
theorem p_length : tables.p.length = 32 := by decide
theorem shift_length : tables.shift.length = 16 := by decide

end Sys2Proof.Machine
end

