-- ==== Sys2Proof/Laws/Fields.lean ====
section
/-! SUPPORT. The slices and joins of rule R70 position by position, and the rotation of R114: with `pos_permute`, what a proof about a field needs of its definition. -/

namespace Sys2Proof.Machine

theorem pos_joinKeyHalves_left (c d : KeyHalf) {p : Nat} (h1 : 1 ≤ p) (h2 : p ≤ 28) :
    pos (joinKeyHalves c d) p = pos c p := by
  simp only [pos, joinKeyHalves]
  rw [BitVec.getLsbD_append, if_neg (by omega)]
  congr 1; omega

theorem pos_joinKeyHalves_right (c d : KeyHalf) {p : Nat} (h1 : 29 ≤ p) (h2 : p ≤ 56) :
    pos (joinKeyHalves c d) p = pos d (p - 28) := by
  simp only [pos, joinKeyHalves]
  rw [BitVec.getLsbD_append, if_pos (by omega)]
  congr 1; omega

theorem pos_joinHalves_left (a b : Half) {p : Nat} (h1 : 1 ≤ p) (h2 : p ≤ 32) :
    pos (joinHalves a b) p = pos a p := by
  simp only [pos, joinHalves]
  rw [BitVec.getLsbD_append, if_neg (by omega)]
  congr 1; omega

theorem pos_joinHalves_right (a b : Half) {p : Nat} (h1 : 33 ≤ p) (h2 : p ≤ 64) :
    pos (joinHalves a b) p = pos b (p - 32) := by
  simp only [pos, joinHalves]
  rw [BitVec.getLsbD_append, if_pos (by omega)]
  congr 1; omega

theorem pos_leftHalf (v : Block) {p : Nat} (h1 : 1 ≤ p) (h2 : p ≤ 32) : pos (leftHalf v) p = pos v p := by
  simp only [pos, leftHalf, BitVec.getLsbD_extractLsb']
  rw [decide_eq_true (by omega), Bool.true_and]
  congr 1; omega

theorem pos_rightHalf (v : Block) {p : Nat} (h1 : 1 ≤ p) (h2 : p ≤ 32) : pos (rightHalf v) p = pos v (32 + p) := by
  simp only [pos, rightHalf, BitVec.getLsbD_extractLsb']
  rw [decide_eq_true (by omega), Bool.true_and]
  congr 1; omega

theorem pos_leftKeyHalf (v : Pair56) {p : Nat} (h1 : 1 ≤ p) (h2 : p ≤ 28) : pos (leftKeyHalf v) p = pos v p := by
  simp only [pos, leftKeyHalf, BitVec.getLsbD_extractLsb']
  rw [decide_eq_true (by omega), Bool.true_and]
  congr 1; omega

theorem pos_rightKeyHalf (v : Pair56) {p : Nat} (h1 : 1 ≤ p) (h2 : p ≤ 28) :
    pos (rightKeyHalf v) p = pos v (28 + p) := by
  simp only [pos, rightKeyHalf, BitVec.getLsbD_extractLsb']
  rw [decide_eq_true (by omega), Bool.true_and]
  congr 1; omega

/-- The join of a value's halves is the value (R14, R54). -/
theorem joinHalves_halves (v : Block) : joinHalves (leftHalf v) (rightHalf v) = v := by
  apply eq_of_pos
  intro p h1 h2
  by_cases h : p ≤ 32
  · rw [pos_joinHalves_left _ _ h1 h, pos_leftHalf _ h1 h]
  · rw [pos_joinHalves_right _ _ (by omega) h2, pos_rightHalf _ (by omega) (by omega)]
    congr 1; omega

@[simp] theorem leftHalf_joinHalves (a b : Half) : leftHalf (joinHalves a b) = a :=
  eq_of_pos fun _ h1 h2 => by rw [pos_leftHalf _ h1 h2, pos_joinHalves_left _ _ h1 h2]

@[simp] theorem rightHalf_joinHalves (a b : Half) : rightHalf (joinHalves a b) = b :=
  eq_of_pos fun _ h1 h2 => by
    rw [pos_rightHalf _ h1 h2, pos_joinHalves_right _ _ (by omega) (by omega), Nat.add_sub_cancel_left]

/-- A rotation reads position `(j - 1 + n) mod 28 + 1` (R114, in the form of the opcode table). -/
theorem pos_rotl28 (v : KeyHalf) (n : Shift) {j : Nat} (h1 : 1 ≤ j) (h2 : j ≤ 28) :
    pos (rotl28 v n) j = pos v ((j - 1 + shiftAmount n) % 28 + 1) := by
  simp only [pos, rotl28, BitVec.getLsbD_or, BitVec.getLsbD_shiftLeft, BitVec.getLsbD_ushiftRight]
  cases n <;> simp only [shiftAmount] <;> interval_cases j <;> simp

end Sys2Proof.Machine
end

