-- ==== Sys2Proof/Laws/State.lean ====
section
/-! SUPPORT. What each update of the state leaves in each field, true by unfolding, for simp: no later proof unfolds a record update. -/

namespace Sys2Proof.Machine

@[simp] theorem State.applyReset_L (s : State) : s.applyReset.L = 0 := rfl
@[simp] theorem State.applyReset_R (s : State) : s.applyReset.R = 0 := rfl
@[simp] theorem State.applyReset_C (s : State) : s.applyReset.C = 0 := rfl
@[simp] theorem State.applyReset_D (s : State) : s.applyReset.D = 0 := rfl
@[simp] theorem State.applyReset_phase (s : State) : s.applyReset.phase = 0 := rfl
@[simp] theorem State.applyReset_OUT (s : State) : s.applyReset.OUT = 0 := rfl
@[simp] theorem State.applyReset_done (s : State) : s.applyReset.done = false := rfl
@[simp] theorem State.applyReset_pins (s : State) : s.applyReset.pins = s.pins := rfl
@[simp] theorem State.applyReset_script (s : State) : s.applyReset.script = s.script := rfl
@[simp] theorem State.applyReset_answer (s : State) : s.applyReset.answer = s.answer := rfl

@[simp] theorem State.loadStart_L (s : State) (b k : Block) : (s.loadStart b k).L = (initialPair b).1 := rfl
@[simp] theorem State.loadStart_R (s : State) (b k : Block) : (s.loadStart b k).R = (initialPair b).2 := rfl
@[simp] theorem State.loadStart_C (s : State) (b k : Block) : (s.loadStart b k).C = (initialKeyPair k).1 := rfl
@[simp] theorem State.loadStart_D (s : State) (b k : Block) : (s.loadStart b k).D = (initialKeyPair k).2 := rfl
@[simp] theorem State.loadStart_phase (s : State) (b k : Block) : (s.loadStart b k).phase = 1 := rfl
@[simp] theorem State.loadStart_OUT (s : State) (b k : Block) : (s.loadStart b k).OUT = s.OUT := rfl
@[simp] theorem State.loadStart_done (s : State) (b k : Block) : (s.loadStart b k).done = false := rfl
@[simp] theorem State.loadStart_pins (s : State) (b k : Block) : (s.loadStart b k).pins = s.pins := rfl
@[simp] theorem State.loadStart_script (s : State) (b k : Block) : (s.loadStart b k).script = s.script := rfl
@[simp] theorem State.loadStart_answer (s : State) (b k : Block) : (s.loadStart b k).answer = s.answer := rfl

@[simp] theorem State.applyRound_L (s : State) (i : Nat) : (s.applyRound i).L = s.R := rfl
@[simp] theorem State.applyRound_R (s : State) (i : Nat) : (s.applyRound i).R = s.L ^^^ feistel s.R (s.roundSubkey i) := rfl
@[simp] theorem State.applyRound_C (s : State) (i : Nat) : (s.applyRound i).C = rotl28 s.C (shiftAt i) := rfl
@[simp] theorem State.applyRound_D (s : State) (i : Nat) : (s.applyRound i).D = rotl28 s.D (shiftAt i) := rfl
@[simp] theorem State.applyRound_phase (s : State) (i : Nat) : (s.applyRound i).phase = s.phase + 1 := rfl
@[simp] theorem State.applyRound_OUT (s : State) (i : Nat) : (s.applyRound i).OUT = s.OUT := rfl
@[simp] theorem State.applyRound_done (s : State) (i : Nat) : (s.applyRound i).done = s.done := rfl
@[simp] theorem State.applyRound_pins (s : State) (i : Nat) : (s.applyRound i).pins = s.pins := rfl
@[simp] theorem State.applyRound_script (s : State) (i : Nat) : (s.applyRound i).script = s.script := rfl
@[simp] theorem State.applyRound_answer (s : State) (i : Nat) : (s.applyRound i).answer = s.answer := rfl

@[simp] theorem State.applyFinal_L (s : State) : s.applyFinal.L = s.L := rfl
@[simp] theorem State.applyFinal_R (s : State) : s.applyFinal.R = s.R := rfl
@[simp] theorem State.applyFinal_C (s : State) : s.applyFinal.C = s.C := rfl
@[simp] theorem State.applyFinal_D (s : State) : s.applyFinal.D = s.D := rfl
@[simp] theorem State.applyFinal_phase (s : State) : s.applyFinal.phase = 0 := rfl
@[simp] theorem State.applyFinal_OUT (s : State) : s.applyFinal.OUT = fp (joinHalves s.R s.L) := rfl
@[simp] theorem State.applyFinal_done (s : State) : s.applyFinal.done = true := rfl
@[simp] theorem State.applyFinal_pins (s : State) : s.applyFinal.pins = s.pins := rfl
@[simp] theorem State.applyFinal_script (s : State) : s.applyFinal.script = s.script := rfl
@[simp] theorem State.applyFinal_answer (s : State) : s.applyFinal.answer = s.answer := rfl

@[simp] theorem State.answered_L (s : State) (a : Answer) : (s.answered a).L = s.L := rfl
@[simp] theorem State.answered_R (s : State) (a : Answer) : (s.answered a).R = s.R := rfl
@[simp] theorem State.answered_C (s : State) (a : Answer) : (s.answered a).C = s.C := rfl
@[simp] theorem State.answered_D (s : State) (a : Answer) : (s.answered a).D = s.D := rfl
@[simp] theorem State.answered_phase (s : State) (a : Answer) : (s.answered a).phase = s.phase := rfl
@[simp] theorem State.answered_OUT (s : State) (a : Answer) : (s.answered a).OUT = s.OUT := rfl
@[simp] theorem State.answered_done (s : State) (a : Answer) : (s.answered a).done = s.done := rfl
@[simp] theorem State.answered_pins (s : State) (a : Answer) : (s.answered a).pins = s.pins := rfl
@[simp] theorem State.answered_script (s : State) (a : Answer) : (s.answered a).script = s.script := rfl
@[simp] theorem State.answered_answer (s : State) (a : Answer) : (s.answered a).answer = a := rfl

@[simp] theorem State.waitEnded_L (s : State) : s.waitEnded.L = s.L := by
  unfold State.waitEnded; split <;> rfl
@[simp] theorem State.waitEnded_R (s : State) : s.waitEnded.R = s.R := by
  unfold State.waitEnded; split <;> rfl
@[simp] theorem State.waitEnded_C (s : State) : s.waitEnded.C = s.C := by
  unfold State.waitEnded; split <;> rfl
@[simp] theorem State.waitEnded_D (s : State) : s.waitEnded.D = s.D := by
  unfold State.waitEnded; split <;> rfl
@[simp] theorem State.waitEnded_phase (s : State) : s.waitEnded.phase = s.phase := by
  unfold State.waitEnded; split <;> rfl
@[simp] theorem State.waitEnded_OUT (s : State) : s.waitEnded.OUT = s.OUT := by
  unfold State.waitEnded; split <;> rfl
@[simp] theorem State.waitEnded_done (s : State) : s.waitEnded.done = s.done := by
  unfold State.waitEnded; split <;> rfl
@[simp] theorem State.waitEnded_pins (s : State) : s.waitEnded.pins = s.pins := by
  unfold State.waitEnded; split <;> rfl
theorem State.waitEnded_script (s : State) :
    s.waitEnded.script = if s.done then s.script else .wait :: s.script := by
  unfold State.waitEnded; split <;> rfl
@[simp] theorem State.waitEnded_answer (s : State) : s.waitEnded.answer = s.answer := by
  unfold State.waitEnded; split <;> rfl

@[simp] theorem Pins.idle_rst (p : Pins) : p.idle.rst = false := rfl
@[simp] theorem Pins.idle_start (p : Pins) : p.idle.start = false := rfl
@[simp] theorem Pins.idle_blockIn (p : Pins) : p.idle.blockIn = p.blockIn := rfl
@[simp] theorem Pins.idle_keyIn (p : Pins) : p.idle.keyIn = p.keyIn := rfl
@[simp] theorem Pins.idle_idle (p : Pins) : p.idle.idle = p.idle := rfl
@[simp] theorem Pins.request_idle (b k : Block) : (Pins.request b k).idle = ⟨false, false, b, k⟩ := rfl

/-- The subkey of a round reads only the key halves. -/
theorem State.roundSubkey_eq (s : State) (i : Nat) :
    s.roundSubkey i = pc2 (joinKeyHalves (rotl28 s.C (shiftAt i)) (rotl28 s.D (shiftAt i))) := rfl

/-- The pre-output block reads only `L` and `R`. -/
theorem State.preOutput_eq (s : State) : s.preOutput = joinHalves s.R s.L := rfl

end Sys2Proof.Machine
end

