-- ==== Sys2Proof/Laws/Ops.lean ====
section
/-! SUPPORT. What each shared operation can do, said once: the cases of an edge, and how a property passes through the host's lines. -/

namespace Sys2Proof.Machine

theorem State.sequence_idle {s : State} (h : s.phase.toNat = 0) : s.sequence = .next s := by
  rw [State.sequence, if_pos h]

theorem State.sequence_round {s : State} {i : Nat} (hi : i < 16) (h : s.phase.toNat = i + 1) :
    s.sequence = .next (s.applyRound i) := by
  rw [State.sequence, if_neg (by omega), if_pos (by omega), h]; rfl

theorem State.sequence_final {s : State} (h : s.phase.toNat = 17) : s.sequence = .next s.applyFinal := by
  rw [State.sequence, if_neg (by omega), if_neg (by omega), if_pos h]

theorem State.sequence_reserved {s : State} (h : 18 ≤ s.phase.toNat) : s.sequence = .refused .reservedPhase := by
  rw [State.sequence, if_neg (by omega), if_neg (by omega), if_neg (by omega)]

/-- Everything an edge without a request can do when it completes (R153). -/
theorem State.sequence_cases {s t : State} (h : s.sequence = .next t) :
    (s.phase.toNat = 0 ∧ t = s) ∨ (∃ i < 16, s.phase.toNat = i + 1 ∧ t = s.applyRound i) ∨
      (s.phase.toNat = 17 ∧ t = s.applyFinal) := by
  unfold State.sequence at h
  split at h
  · cases h; exact .inl ⟨‹_›, rfl⟩
  · split at h
    · cases h; exact .inr (.inl ⟨s.phase.toNat - 1, by omega, by omega, rfl⟩)
    · split at h <;> cases h
      exact .inr (.inr ⟨‹_›, rfl⟩)

/-- Everything an edge with a request can do when it completes (R152, R153). -/
theorem State.request_cases {s t : State} {b k : Block} (h : s.request b k = .next t) :
    (s.phase.toNat = 0 ∧ t = s.loadStart b k) ∨ (∃ i < 16, s.phase.toNat = i + 1 ∧ t = s.applyRound i) ∨
      (s.phase.toNat = 17 ∧ t = s.applyFinal) := by
  unfold State.request at h
  split at h
  · cases h; exact .inl ⟨‹_›, rfl⟩
  · rcases State.sequence_cases h with ⟨e, -⟩ | h' | h'
    · exact absurd e ‹_›
    · exact .inr (.inl h')
    · exact .inr (.inr h')

theorem State.selects_iff (s : State) (p : Phase) : s.selects p = true ↔ s.pins.rst = false ∧ s.phase = p := by
  simp [State.selects]

/-- A round micro-operation that completes was selected, and did its round (R154). -/
theorem State.microRound_cases {s t : State} {i : Nat} (h : s.microRound i = .next t) :
    s.pins.rst = false ∧ s.phase = BitVec.ofNat 5 (i + 1) ∧ t = s.applyRound i := by
  unfold State.microRound at h
  split at h
  · next hs => cases h; exact ⟨((State.selects_iff _ _).mp hs).1, ((State.selects_iff _ _).mp hs).2, rfl⟩
  · cases h

theorem State.microRound_selected {s : State} {i : Nat} (hr : s.pins.rst = false)
    (hp : s.phase = BitVec.ofNat 5 (i + 1)) : s.microRound i = .next (s.applyRound i) := by
  simp [State.microRound, State.selects, hr, hp]

theorem State.ifLegal_legal {s : State} {outcome : Host.Outcome State Fault Refusal} (h : s.phase.toNat ≤ 17) :
    s.ifLegal outcome = outcome := by
  rw [State.ifLegal, if_pos h]

theorem State.ifLegal_reserved {s : State} {outcome : Host.Outcome State Fault Refusal} (h : 18 ≤ s.phase.toNat) :
    s.ifLegal outcome = .refused .reservedPhase := by
  rw [State.ifLegal, if_neg (by omega)]

/-- What completes under the guard started in a legal state, and is what was guarded. -/
theorem State.ifLegal_cases {s t : State} {outcome : Host.Outcome State Fault Refusal}
    (h : s.ifLegal outcome = .next t) : s.phase.toNat ≤ 17 ∧ outcome = .next t := by
  unfold State.ifLegal at h
  split at h
  · exact ⟨‹_›, h⟩
  · cases h

/-- A property that every `NOP` line keeps is kept by `NOP n`. -/
theorem State.nopLines_keeps (P : State → Prop) (hP : ∀ s t, P s → s.nopLine = .next t → P t) {n : Nat} {s t : State}
    (hs : P s) (h : State.nopLines n s = .next t) : P t := by
  induction n generalizing s with
  | zero => cases h; exact hs
  | succ n ih =>
    simp only [State.nopLines] at h
    split at h
    · next u hu => exact ih (hP _ _ hs hu) h
    · cases h
    · cases h

/-- A property that every `NOP` line keeps is kept by the edges of `WAIT`. -/
theorem State.nopUntilDone_keeps (P : State → Prop) (hP : ∀ s t, P s → s.nopLine = .next t → P t) {n : Nat}
    {s t : State} (hs : P s) (h : State.nopUntilDone n s = .next t) : P t := by
  induction n generalizing s with
  | zero => cases h; exact hs
  | succ n ih =>
    simp only [State.nopUntilDone] at h
    split at h
    · cases h; exact hs
    · split at h
      · next u hu => exact ih (hP _ _ hs hu) h
      · cases h
      · cases h

end Sys2Proof.Machine
end

