-- ==== Sys2Proof/Laws/PerInstr.lean ====
section
/-! SUPPORT. Statements about the operations as syntax, one lemma per constructor. -/

namespace Sys2Proof.Laws

/-- An operation has an encoding exactly where its row's format is selected by bits (R73). -/
def Encodable.Statement (i : Instr) : Prop := (encode i).isSome = i.format.selectedByBits

theorem Encodable.reset : Encodable.Statement .reset := rfl
theorem Encodable.start (a b : Block) : Encodable.Statement (.start a b) := rfl
theorem Encodable.nop : Encodable.Statement .nop := rfl
theorem Encodable.idle : Encodable.Statement .idle := rfl
theorem Encodable.rnd0 : Encodable.Statement .rnd0 := rfl
theorem Encodable.rnd1 : Encodable.Statement .rnd1 := rfl
theorem Encodable.rnd2 : Encodable.Statement .rnd2 := rfl
theorem Encodable.rnd3 : Encodable.Statement .rnd3 := rfl
theorem Encodable.rnd4 : Encodable.Statement .rnd4 := rfl
theorem Encodable.rnd5 : Encodable.Statement .rnd5 := rfl
theorem Encodable.rnd6 : Encodable.Statement .rnd6 := rfl
theorem Encodable.rnd7 : Encodable.Statement .rnd7 := rfl
theorem Encodable.rnd8 : Encodable.Statement .rnd8 := rfl
theorem Encodable.rnd9 : Encodable.Statement .rnd9 := rfl
theorem Encodable.rnd10 : Encodable.Statement .rnd10 := rfl
theorem Encodable.rnd11 : Encodable.Statement .rnd11 := rfl
theorem Encodable.rnd12 : Encodable.Statement .rnd12 := rfl
theorem Encodable.rnd13 : Encodable.Statement .rnd13 := rfl
theorem Encodable.rnd14 : Encodable.Statement .rnd14 := rfl
theorem Encodable.rnd15 : Encodable.Statement .rnd15 := rfl
theorem Encodable.final : Encodable.Statement .final := rfl
theorem Encodable.perm (table : List Nat) (win : Nat) (v : BitVec win) : Encodable.Statement (.perm table win v) := rfl
theorem Encodable.ip (a : Block) : Encodable.Statement (.ip a) := rfl
theorem Encodable.fp (a : Block) : Encodable.Statement (.fp a) := rfl
theorem Encodable.pc1 (a : Block) : Encodable.Statement (.pc1 a) := rfl
theorem Encodable.pc2 (a : Pair56) : Encodable.Statement (.pc2 a) := rfl
theorem Encodable.expand (a : Half) : Encodable.Statement (.expand a) := rfl
theorem Encodable.pbox (a : Half) : Encodable.Statement (.pbox a) := rfl
theorem Encodable.sbox0 (a : Chunk) : Encodable.Statement (.sbox0 a) := rfl
theorem Encodable.sbox1 (a : Chunk) : Encodable.Statement (.sbox1 a) := rfl
theorem Encodable.sbox2 (a : Chunk) : Encodable.Statement (.sbox2 a) := rfl
theorem Encodable.sbox3 (a : Chunk) : Encodable.Statement (.sbox3 a) := rfl
theorem Encodable.sbox4 (a : Chunk) : Encodable.Statement (.sbox4 a) := rfl
theorem Encodable.sbox5 (a : Chunk) : Encodable.Statement (.sbox5 a) := rfl
theorem Encodable.sbox6 (a : Chunk) : Encodable.Statement (.sbox6 a) := rfl
theorem Encodable.sbox7 (a : Chunk) : Encodable.Statement (.sbox7 a) := rfl
theorem Encodable.rotl28 (a : KeyHalf) (b : Shift) : Encodable.Statement (.rotl28 a b) := rfl
theorem Encodable.ks (a : Block) : Encodable.Statement (.ks a) := rfl
theorem Encodable.sub (a : Subkey) : Encodable.Statement (.sub a) := rfl
theorem Encodable.f (a : Half) (b : Subkey) : Encodable.Statement (.f a b) := rfl
theorem Encodable.round (a b : Half) (c : Subkey) : Encodable.Statement (.round a b c) := rfl
theorem Encodable.encrypt (a b : Block) : Encodable.Statement (.encrypt a b) := rfl
theorem Encodable.decode (a : CodecInput) (b : CodecTarget) : Encodable.Statement (.decode a b) := rfl
theorem Encodable.encode (bits : Nat) (v : BitVec bits) : Encodable.Statement (.encode bits v) := rfl
theorem Encodable.encryptScript (a b : Block) : Encodable.Statement (.encryptScript a b) := rfl
theorem Encodable.wait : Encodable.Statement .wait := rfl
theorem Encodable.read : Encodable.Statement .read := rfl

end Sys2Proof.Laws
end

