-- ==== Sys2Proof/Laws/Step.lean ====
section
/-! SUPPORT. What a step runs: the micro-operation that `phase` selects does what an edge without a request does, and one step of an `edge` line in the terms of the shared operations. -/

namespace Sys2Proof.Machine

/-- The micro-operation that `phase` selects is the edge without a request (R153), where the pins give none. -/
theorem exec_decodeSeq {s : State} {i : Instr} (hr : s.pins.rst = false)
    (hs : s.phase.toNat = 0 → s.pins.start = false) (h : decodeSeq s.phase = .ok i) : exec i s = s.sequence := by
  obtain ⟨L, R, C, D, phase, OUT, done, pins, script, answer⟩ := s
  obtain ⟨rst, start, b, k⟩ := pins
  simp only at hr hs
  subst hr
  unfold decodeSeq at h
  split at h <;> (try cases h) <;> rename_i hp <;>
    (have hphase : phase = BitVec.ofNat 5 phase.toNat := by simp) <;> simp only at hp <;> rw [hp] at hphase <;>
    subst hphase <;> first
    | (obtain rfl := hs rfl; rfl)
    | rfl

/-- Every legal `phase` selects a micro-operation (R72). -/
theorem decodeSeq_isOk : ∀ p : Phase, p.toNat ≤ 17 → (decodeSeq p).isOk = true := by decide

/-- One step at an `edge` line, in the terms of R150. -/
theorem step_edge {s : State} {p : Pins} {rest : List Line} (h : s.script = .edge p :: rest) :
    step s =
      let u := { s with pins := p, script := rest }
      if p.rst then .next u.applyReset
      else if s.phase.toNat = 0 ∧ p.start = true then .next (u.loadStart p.blockIn p.keyIn)
      else u.sequence := by
  simp only [step, State.fetch, h, State.selected, decodeEdge, decodeCtrl]
  by_cases hr : p.rst = true
  · simp [hr, exec, execReset]
  · simp only [Bool.not_eq_true] at hr
    by_cases h0 : s.phase.toNat = 0
    · by_cases hst : p.start = true
      · simp [hr, h0, hst, exec, execStart, State.request]
      · simp only [Bool.not_eq_true] at hst
        have hp : s.phase = 0 := BitVec.eq_of_toNat_eq (by simpa using h0)
        simp [hr, hp, hst, decodeSeq, exec, execIdle, State.selects, State.sequence]
    · by_cases h17 : s.phase.toNat ≤ 17
      · simp only [hr, h0, h17, Bool.false_eq_true, ite_false, ite_true, false_and]
        split
        · next i t hit =>
          split at hit
          · next j hj =>
            cases hit
            exact exec_decodeSeq (s := { s with pins := p, script := rest }) hr (fun e => absurd e h0) hj
          · cases hit
        · next e he =>
          split at he
          · cases he
          · next e' he' =>
            have := decodeSeq_isOk s.phase h17
            simp [he', Except.isOk, Except.toBool] at this
      · simp only [hr, h0, h17, Bool.false_eq_true, ite_false, false_and]
        rw [State.sequence_reserved (s := { s with pins := p, script := rest }) (by simpa using (by omega))]
        rfl

/-- With no line left the host holds the pins: the step is that of an `edge` line with the levels it holds. -/
theorem step_held {s : State} (h : s.script = []) : step s = step { s with script := [.edge s.pins] } := by
  simp only [step, State.fetch, h, State.selected]
  obtain ⟨L, R, C, D, phase, OUT, done, pins, script, answer⟩ := s
  cases h
  rfl

theorem step_wait {s : State} {rest : List Line} (h : s.script = .wait :: rest) :
    step s = execWait { s with script := rest } := by
  simp [step, State.fetch, h, exec]

theorem step_read {s : State} {rest : List Line} (h : s.script = .read :: rest) :
    step s = execRead { s with script := rest } := by
  simp [step, State.fetch, h, exec]

end Sys2Proof.Machine
end

