-- ==== Sys2Proof/Tests/Slice0.lean ====
section
/-! SUPPORT. Tests: decoding against words written out from R68 and R72, the ill-formed operands, single operations against 95_test_vectors.md and the examples of the rules, and a witness for the hypotheses of each statement. -/

/-! One theorem at a time: many kernel evaluations at once ask for more threads than the sandbox gives. -/

set_option Elab.async false

namespace Sys2Proof.Tests

open Sys2Proof Sys2Proof.Machine

/-! ## Helpers -/

/-- Registers written as 95_test_vectors.md, section 2.7, writes them: `phase / L / R / C / D / OUT / done`. -/
def regs (phase : Phase) (l r : Half) (c d : KeyHalf) (out : Block) (done : Bool) : State :=
  { State.reset with phase := phase, L := l, R := r, C := c, D := d, OUT := out, done := done }

/-- The state with one line of the host before it. -/
def State.onEdge (s : State) (rst start : Bool) (b k : Block) : State :=
  { s with script := [.edge ⟨rst, start, b, k⟩] }

/-- The seven registers. -/
structure Registers where
  phase : Phase
  L     : Half
  R     : Half
  C     : KeyHalf
  D     : KeyHalf
  OUT   : Block
  done  : Bool
  deriving DecidableEq, Repr

/-- The registers of the state a step leaves. -/
def after (o : Host.Outcome State Fault Refusal) : Option Registers :=
  match o with
  | .next t => some ⟨t.phase, t.L, t.R, t.C, t.D, t.OUT, t.done⟩
  | .fault _ => none
  | .refused _ => none

/-- What an operation answers. -/
def answerOf (o : Host.Outcome State Fault Refusal) : Option Answer :=
  match o with
  | .next t => some t.answer
  | .fault _ => none
  | .refused _ => none

/-- The name of a refusal. -/
def refusalOf (o : Host.Outcome State Fault Refusal) : Option Refusal :=
  match o with
  | .next _ => none
  | .fault _ => none
  | .refused r => some r

/-- What a decoder gives. -/
def decoded (r : Except DecodeError Instr) : Option Instr :=
  match r with
  | .ok i => some i
  | .error _ => none

/-- A state of an idle core, one at the first round, one at FINAL (95_test_vectors.md, section 2.7, rows 4, 5, 8). -/
def idleState : State := State.reset
def roundState : State := regs 1 0xCC00CCFF 0xF0AAF0AA 0xF0CCAAF 0x556678F 0 false
def finalState : State := regs 17 0x43423234 0x0A4CD995 0xF0CCAAF 0x556678F 0 false
/-- A state no run reaches: a reserved `phase` (row 2). -/
def reservedState : State := regs 23 0xDEADBEEF 0xCAFEF00D 0x1234567 0x89ABCDE 0x1111111111111111 true

/-! ## Well-formedness (R101, R95) -/

theorem test_wellformed_accepts :
    (Instr.perm [3, 1, 1] 3 0b110).wellFormed = true ∧ (Instr.encode 8 0xAB).wellFormed = true := by decide

/-- Ill-formed: an entry 0, an entry above the input width. -/
theorem test_wellformed_refuses_table :
    (Instr.perm [3, 0, 1] 3 0b110).wellFormed = false ∧ (Instr.perm [3, 1, 4] 3 0b110).wellFormed = false := by decide

/-- Ill-formed: 6 bits are no whole number of hexadecimal digits. -/
theorem test_wellformed_refuses_encode : (Instr.encode 6 0).wellFormed = false := by decide

/-! ## Decoding, word by word from R68 (`CTRL`: bit 1 `rst`, bit 0 `start`) and R72 (`phase`) -/

theorem test_decode_reset : decodeTableWord 8 0b00000010 = some .reset ∧ decodeTableWord 8 0b00000011 = some .reset := by
  decide +kernel

/-- `block_in` and `key_in` stand above the two `CTRL` bits. -/
theorem test_decode_start :
    decoded (decodeWord 0 (.ctrl 0x133457799BBCDFF10123456789ABCDEF01)) =
      some (.start 0x0123456789ABCDEF 0x133457799BBCDFF1) := by decide +kernel

theorem test_decode_start_while_busy :
    decoded (decodeWord 17 (.ctrl 0x133457799BBCDFF10123456789ABCDEF01)) = some .nop := by decide +kernel

theorem test_decode_nop : decodeTableWord 8 0b00000000 = some .nop := by decide +kernel

theorem test_decode_sequencer :
    (List.range 18).map (fun p => decoded (decodeWord 0 (.seq (BitVec.ofNat 5 p)))) =
      [some .idle, some .rnd0, some .rnd1, some .rnd2, some .rnd3, some .rnd4, some .rnd5, some .rnd6, some .rnd7,
       some .rnd8, some .rnd9, some .rnd10, some .rnd11, some .rnd12, some .rnd13, some .rnd14, some .rnd15,
       some .final] := by decide +kernel

theorem test_decode_reserved : decodeTableWord 8 0b10010 = none ∧ decodeTableWord 8 0b11111 = none := by decide +kernel

/-- Bits of the first byte above `CTRL` and above `phase` are no word of the table. -/
theorem test_decode_padding : decodeTableWord 8 0b01000000 = none ∧ decodeTableWord 8 0b10000001 = none := by
  decide +kernel

/-- A word of the table runs as the first operation after reset. -/
theorem test_fetch_final : after (step (State.reset.withFetchWord 8 0b10001)) = some ⟨0, 0, 0, 0, 0, 0, true⟩ := by
  decide +kernel

theorem test_fetch_start : after (step (State.reset.withFetchWord 8 0b01)) = some ⟨1, 0, 0, 0, 0, 0, false⟩ := by
  decide +kernel

/-! ## Single steps (95_test_vectors.md, section 2.7) -/

/-- Row 2. -/
theorem test_step_reset_from_reserved_phase :
    after (step (State.onEdge reservedState true true 0 0)) = some ⟨0, 0, 0, 0, 0, 0, false⟩ := by decide +kernel

/-- Row 4. -/
theorem test_step_start :
    after (step (State.onEdge idleState false true 0x0123456789ABCDEF 0x133457799BBCDFF1)) =
      some ⟨1, 0xCC00CCFF, 0xF0AAF0AA, 0xF0CCAAF, 0x556678F, 0, false⟩ := by decide +kernel

/-- Row 11: `OUT` is kept, `done` cleared, the residue overwritten. -/
theorem test_step_start_after_result :
    after (step (State.onEdge (regs 0 0x43423234 0x0A4CD995 0xF0CCAAF 0x556678F 0x85E813540F0AB405 true) false true 0 0)) =
      some ⟨1, 0, 0, 0, 0, 0x85E813540F0AB405, false⟩ := by decide +kernel

/-- Row 6: `start` while busy is ignored. -/
theorem test_step_round0_ignores_start :
    after (step (State.onEdge roundState false true 0xFFFFFFFFFFFFFFFF 0xFFFFFFFFFFFFFFFF)) =
      some ⟨2, 0xF0AAF0AA, 0xEF4A6544, 0xE19955F, 0xAACCF1E, 0, false⟩ := by decide +kernel

/-- Row 9: `start` at the FINAL edge is ignored. -/
theorem test_step_final_ignores_start :
    after (step (State.onEdge finalState false true 0 0)) =
      some ⟨0, 0x43423234, 0x0A4CD995, 0xF0CCAAF, 0x556678F, 0x85E813540F0AB405, true⟩ := by decide +kernel

/-- Row 10. -/
theorem test_step_idle_hold :
    after (step (State.onEdge (regs 0 0x43423234 0x0A4CD995 0xF0CCAAF 0x556678F 0x85E813540F0AB405 true) false false 0 0)) =
      some ⟨0, 0x43423234, 0x0A4CD995, 0xF0CCAAF, 0x556678F, 0x85E813540F0AB405, true⟩ := by decide +kernel

/-! ## Commands and micro-operations (R151 to R156; program P1 of 95_test_vectors.md) -/

/-- The example of R151. -/
theorem test_reset :
    after (exec .reset (regs 6 1 2 3 4 0x85E813540F0AB405 false)) = some ⟨0, 0, 0, 0, 0, 0, false⟩ := by decide +kernel

theorem test_start_while_busy :
    after (exec (.start 0 0) roundState) = some ⟨2, 0xF0AAF0AA, 0xEF4A6544, 0xE19955F, 0xAACCF1E, 0, false⟩ := by
  decide +kernel

theorem test_nop_in_round : after (exec .nop roundState) = some ⟨2, 0xF0AAF0AA, 0xEF4A6544, 0xE19955F, 0xAACCF1E, 0, false⟩ := by
  decide +kernel

/-- P1, edge 3. -/
theorem test_rnd0 : after (exec .rnd0 roundState) = some ⟨2, 0xF0AAF0AA, 0xEF4A6544, 0xE19955F, 0xAACCF1E, 0, false⟩ := by
  decide +kernel
/-- P1, edge 4. -/
theorem test_rnd1 : after (exec .rnd1 (regs 2 0xF0AAF0AA 0xEF4A6544 0xE19955F 0xAACCF1E 0 false)) =
    some ⟨3, 0xEF4A6544, 0xCC017709, 0xC332ABF, 0x5599E3D, 0, false⟩ := by decide +kernel
/-- P1, edge 5. -/
theorem test_rnd2 : after (exec .rnd2 (regs 3 0xEF4A6544 0xCC017709 0xC332ABF 0x5599E3D 0 false)) =
    some ⟨4, 0xCC017709, 0xA25C0BF4, 0x0CCAAFF, 0x56678F5, 0, false⟩ := by decide +kernel
/-- P1, edge 6. -/
theorem test_rnd3 : after (exec .rnd3 (regs 4 0xCC017709 0xA25C0BF4 0x0CCAAFF 0x56678F5 0 false)) =
    some ⟨5, 0xA25C0BF4, 0x77220045, 0x332ABFC, 0x599E3D5, 0, false⟩ := by decide +kernel
/-- P1, edge 7. -/
theorem test_rnd4 : after (exec .rnd4 (regs 5 0xA25C0BF4 0x77220045 0x332ABFC 0x599E3D5 0 false)) =
    some ⟨6, 0x77220045, 0x8A4FA637, 0xCCAAFF0, 0x6678F55, 0, false⟩ := by decide +kernel
/-- P1, edge 8. -/
theorem test_rnd5 : after (exec .rnd5 (regs 6 0x77220045 0x8A4FA637 0xCCAAFF0 0x6678F55 0 false)) =
    some ⟨7, 0x8A4FA637, 0xE967CD69, 0x32ABFC3, 0x99E3D55, 0, false⟩ := by decide +kernel
/-- P1, edge 9. -/
theorem test_rnd6 : after (exec .rnd6 (regs 7 0x8A4FA637 0xE967CD69 0x32ABFC3 0x99E3D55 0 false)) =
    some ⟨8, 0xE967CD69, 0x064ABA10, 0xCAAFF0C, 0x678F556, 0, false⟩ := by decide +kernel
/-- P1, edge 10. -/
theorem test_rnd7 : after (exec .rnd7 (regs 8 0xE967CD69 0x064ABA10 0xCAAFF0C 0x678F556 0 false)) =
    some ⟨9, 0x064ABA10, 0xD5694B90, 0x2ABFC33, 0x9E3D559, 0, false⟩ := by decide +kernel
/-- P1, edge 11: a rotation by 1. -/
theorem test_rnd8 : after (exec .rnd8 (regs 9 0x064ABA10 0xD5694B90 0x2ABFC33 0x9E3D559 0 false)) =
    some ⟨10, 0xD5694B90, 0x247CC67A, 0x557F866, 0x3C7AAB3, 0, false⟩ := by decide +kernel
/-- P1, edge 12. -/
theorem test_rnd9 : after (exec .rnd9 (regs 10 0xD5694B90 0x247CC67A 0x557F866 0x3C7AAB3 0 false)) =
    some ⟨11, 0x247CC67A, 0xB7D5D7B2, 0x55FE199, 0xF1EAACC, 0, false⟩ := by decide +kernel
/-- P1, edge 13. -/
theorem test_rnd10 : after (exec .rnd10 (regs 11 0x247CC67A 0xB7D5D7B2 0x55FE199 0xF1EAACC 0 false)) =
    some ⟨12, 0xB7D5D7B2, 0xC5783C78, 0x57F8665, 0xC7AAB33, 0, false⟩ := by decide +kernel
/-- P1, edge 14. -/
theorem test_rnd11 : after (exec .rnd11 (regs 12 0xB7D5D7B2 0xC5783C78 0x57F8665 0xC7AAB33 0 false)) =
    some ⟨13, 0xC5783C78, 0x75BD1858, 0x5FE1995, 0x1EAACCF, 0, false⟩ := by decide +kernel
/-- P1, edge 15. -/
theorem test_rnd12 : after (exec .rnd12 (regs 13 0xC5783C78 0x75BD1858 0x5FE1995 0x1EAACCF 0 false)) =
    some ⟨14, 0x75BD1858, 0x18C3155A, 0x7F86655, 0x7AAB33C, 0, false⟩ := by decide +kernel
/-- P1, edge 16. -/
theorem test_rnd13 : after (exec .rnd13 (regs 14 0x75BD1858 0x18C3155A 0x7F86655 0x7AAB33C 0 false)) =
    some ⟨15, 0x18C3155A, 0xC28C960D, 0xFE19955, 0xEAACCF1, 0, false⟩ := by decide +kernel
/-- P1, edge 17. -/
theorem test_rnd14 : after (exec .rnd14 (regs 15 0x18C3155A 0xC28C960D 0xFE19955 0xEAACCF1 0 false)) =
    some ⟨16, 0xC28C960D, 0x43423234, 0xF866557, 0xAAB33C7, 0, false⟩ := by decide +kernel
/-- P1, edge 18: a rotation by 1, and no swap. -/
theorem test_rnd15 : after (exec .rnd15 (regs 16 0xC28C960D 0x43423234 0xF866557 0xAAB33C7 0 false)) =
    some ⟨17, 0x43423234, 0x0A4CD995, 0xF0CCAAF, 0x556678F, 0, false⟩ := by decide +kernel
/-- The example of R156: the swap. -/
theorem test_final : after (exec .final finalState) =
    some ⟨0, 0x43423234, 0x0A4CD995, 0xF0CCAAF, 0x556678F, 0x85E813540F0AB405, true⟩ := by decide +kernel
/-- The example of R152, as the micro-operation. -/
theorem test_idle_starts :
    after (exec .idle { idleState with pins := Pins.request 0x0123456789ABCDEF 0x133457799BBCDFF1 }) =
      some ⟨1, 0xCC00CCFF, 0xF0AAF0AA, 0xF0CCAAF, 0x556678F, 0, false⟩ := by decide +kernel

/-! ## Function units (examples of R99 to R140; 95_test_vectors.md, sections 2.2 to 2.5) -/

/-- R99's toy table, and the one of section 2.3. -/
theorem test_perm : answerOf (exec (.perm [3, 1, 1] 3 0b110) idleState) = some (.bits 3 0b011) ∧
    answerOf (exec (.perm [2, 1, 2] 2 0b10) idleState) = some (.bits 3 0b010) := by decide +kernel
/-- R101: the table, and the index of its first bad entry, from 1. -/
theorem test_perm_refuses : refusalOf (exec (.perm [3, 1, 4, 0] 3 0b110) idleState) =
    some (.configurationError ⟨.given [3, 1, 4, 0], 3⟩) := by
  decide +kernel
theorem test_ip : answerOf (exec (.ip 0x0123456789ABCDEF) idleState) = some (.bits 64 0xCC00CCFFF0AAF0AA) := by
  decide +kernel
theorem test_fp : answerOf (exec (.fp 0x0A4CD99543423234) idleState) = some (.bits 64 0x85E813540F0AB405) := by
  decide +kernel
theorem test_pc1 : answerOf (exec (.pc1 0x133457799BBCDFF1) idleState) = some (.bits 56 0xF0CCAAF556678F) ∧
    answerOf (exec (.pc1 0x0101010101010101) idleState) = some (.bits 56 0) := by decide +kernel
theorem test_pc2 : answerOf (exec (.pc2 0xE19955FAACCF1E) idleState) = some (.bits 48 0x1B02EFFC7072) ∧
    answerOf (exec (.pc2 0x00000000000001) idleState) = some (.bits 48 0x000000000100) := by decide +kernel
theorem test_expand : answerOf (exec (.expand 0xF0AAF0AA) idleState) = some (.bits 48 0x7A15557A1555) ∧
    answerOf (exec (.expand 0x80000000) idleState) = some (.bits 48 0x400000000001) := by decide +kernel
theorem test_pbox : answerOf (exec (.pbox 0x5C82B597) idleState) = some (.bits 32 0x234AA9BB) ∧
    answerOf (exec (.pbox 0x00010000) idleState) = some (.bits 32 0x80000000) := by decide +kernel

/-- The columns of R130's table, in its order. -/
def corners : List Chunk := [0x00, 0x01, 0x20, 0x21, 0x1E, 0x1F, 0x3E, 0x3F, 0x2A, 0x15]

theorem test_sbox0 : corners.map (fun x => answerOf (exec (.sbox0 x) idleState)) =
    [0xE, 0x0, 0x4, 0xF, 0x7, 0x8, 0x0, 0xD, 0x6, 0xC].map (fun v => some (.bits 4 v)) := by decide +kernel
theorem test_sbox1 : corners.map (fun x => answerOf (exec (.sbox1 x) idleState)) =
    [0xF, 0x3, 0x0, 0xD, 0xA, 0x5, 0xF, 0x9, 0x4, 0x1].map (fun v => some (.bits 4 v)) := by decide +kernel
theorem test_sbox2 : corners.map (fun x => answerOf (exec (.sbox2 x) idleState)) =
    [0xA, 0xD, 0xD, 0x1, 0x8, 0x1, 0x7, 0xC, 0xF, 0x5].map (fun v => some (.bits 4 v)) := by decide +kernel
theorem test_sbox3 : corners.map (fun x => answerOf (exec (.sbox3 x) idleState)) =
    [0x7, 0xD, 0xA, 0x3, 0xF, 0x9, 0x4, 0xE, 0xB, 0x2].map (fun v => some (.bits 4 v)) := by decide +kernel
theorem test_sbox4 : corners.map (fun x => answerOf (exec (.sbox4 x) idleState)) =
    [0x2, 0xE, 0x4, 0xB, 0x9, 0x6, 0xE, 0x3, 0xD, 0xF].map (fun v => some (.bits 4 v)) := by decide +kernel
theorem test_sbox5 : corners.map (fun x => answerOf (exec (.sbox5 x) idleState)) =
    [0xC, 0xA, 0x9, 0x4, 0xB, 0x8, 0x6, 0xD, 0x8, 0xD].map (fun v => some (.bits 4 v)) := by decide +kernel
theorem test_sbox6 : corners.map (fun x => answerOf (exec (.sbox6 x) idleState)) =
    [0x4, 0xD, 0x1, 0x6, 0x1, 0x6, 0x2, 0xC, 0x3, 0x5].map (fun v => some (.bits 4 v)) := by decide +kernel
theorem test_sbox7 : corners.map (fun x => answerOf (exec (.sbox7 x) idleState)) =
    [0xD, 0x1, 0x7, 0x2, 0x7, 0x2, 0x8, 0xB, 0xC, 0x6].map (fun v => some (.bits 4 v)) := by decide +kernel

theorem test_rotl28 : answerOf (exec (.rotl28 0x8000000 .one) idleState) = some (.bits 28 0x0000001) ∧
    answerOf (exec (.rotl28 0xF0CCAAF .two) idleState) = some (.bits 28 0xC332ABF) := by decide +kernel
/-- Section 2.1, all sixteen. -/
theorem test_ks : answerOf (exec (.ks 0x133457799BBCDFF1) idleState) = some (.subkeys
    [0x1B02EFFC7072, 0x79AED9DBC9E5, 0x55FC8A42CF99, 0x72ADD6DB351D, 0x7CEC07EB53A8, 0x63A53E507B2F, 0xEC84B7F618BC,
     0xF78A3AC13BFB, 0xE0DBEBEDE781, 0xB1F347BA464F, 0x215FD3DED386, 0x7571F59467E9, 0x97C5D1FABA41, 0x5F43B7F2E73A,
     0xBF918D3D3F0A, 0xCB3D8B0E17F5]) := by decide +kernel
theorem test_sub : answerOf (exec (.sub 0x6117BA866527) idleState) = some (.bits 32 0x5C82B597) ∧
    answerOf (exec (.sub 0x800000000000) idleState) = some (.bits 32 0x4FA72C4D) := by decide +kernel
theorem test_f : answerOf (exec (.f 0xF0AAF0AA 0x1B02EFFC7072) idleState) = some (.bits 32 0x234AA9BB) ∧
    answerOf (exec (.f 0x12345678 0) idleState) = some (.bits 32 0x5101D5DD) := by decide +kernel
theorem test_round : answerOf (exec (.round 0xCC00CCFF 0xF0AAF0AA 0x1B02EFFC7072) idleState) =
    some (.halves 0xF0AAF0AA 0xEF4A6544) := by decide +kernel
/-- The source's vector. -/
theorem test_encrypt : answerOf (exec (.encrypt 0x0123456789ABCDEF 0x133457799BBCDFF1) idleState) =
    some (.bits 64 0x85E813540F0AB405) := by decide +kernel
theorem test_encrypt_leading_zeros : answerOf (exec (.encrypt 0x8787878787878787 0x0E329232EA6D0D73) idleState) =
    some (.bits 64 0) := by decide +kernel

/-! ## The host side (95_test_vectors.md, section 2.6; R92) -/

theorem test_codec_decodes :
    answerOf (exec (.decode (.text "133457799bbcdff1".toList) .block) idleState) = some (.bits 64 0x133457799BBCDFF1) ∧
    answerOf (exec (.decode (.integer 0x1F) (.width 8)) idleState) = some (.bits 8 0b00011111) := by decide +kernel
theorem test_codec_rejects :
    refusalOf (exec (.decode (.integer 0x100) (.width 8)) idleState) = some .formatError ∧
    refusalOf (exec (.decode (.text "0123456789ABCDE".toList) .block) idleState) = some .formatError ∧
    refusalOf (exec (.decode (.text "0123456789ABCDE".toList) (.width 64)) idleState) = some .formatError ∧
    refusalOf (exec (.decode (.text "00123456789ABCDEF".toList) (.width 64)) idleState) = some .formatError ∧
    refusalOf (exec (.decode (.text "0x23456789ABCDEF".toList) (.width 64)) idleState) = some .formatError := by
  decide +kernel
theorem test_codec_encodes :
    answerOf (exec (.encode 64 5) idleState) = some (.text "0000000000000005".toList) ∧
    answerOf (exec (.encode 8 0b10101011) idleState) = some (.text "AB".toList) := by decide +kernel
theorem test_encrypt_script :
    after (exec (.encryptScript 0x0123456789ABCDEF 0x133457799BBCDFF1) idleState) =
      some ⟨0, 0x43423234, 0x0A4CD995, 0xF0CCAAF, 0x556678F, 0x85E813540F0AB405, true⟩ := by decide +kernel
/-- `WAIT` at FINAL takes the one edge that sets `done`. -/
theorem test_wait : after (exec .wait finalState) =
    some ⟨0, 0x43423234, 0x0A4CD995, 0xF0CCAAF, 0x556678F, 0x85E813540F0AB405, true⟩ := by decide +kernel
theorem test_read : answerOf (exec .read roundState) = some (.sample 0 true false) := by decide +kernel

/-! ## Witnesses: states and operands that meet the hypotheses of the statements, clause by clause -/

/-- ControlPinsDecode, PhaseSelectsMicroOperation, NopDoesWhatPhaseSelects: `phase` at the ends of each range. -/
theorem test_witness_phase_ranges :
    (0 : Phase).toNat = 0 ∧ (1 ≤ (1 : Phase).toNat ∧ (1 : Phase).toNat ≤ 17) ∧
    (1 ≤ (17 : Phase).toNat ∧ (17 : Phase).toNat ≤ 17) ∧ 18 ≤ (18 : Phase).toNat ∧ 18 ≤ (31 : Phase).toNat ∧
    decoded (decodeCtrl 17 false true 0 0) = some .nop ∧ decoded (decodeCtrl 18 false true 0 0) = none ∧
    decoded (decodeCtrl 31 true true 0 0) = some .reset := by decide +kernel

/-- PhaseSelectsMicroOperation, RoundMicroOperations, FinalDeliversCiphertext, NopDoesWhatPhaseSelects: each `phase` with
`rst = 0`. -/
theorem test_witness_selected :
    (roundState.phase = BitVec.ofNat 5 1 ∧ roundState.phase.toNat = 0 + 1 ∧ roundState.pins.rst = false) ∧
    ((regs 16 0 0 0 0 0 false).phase.toNat = 15 + 1 ∧ (regs 16 0 0 0 0 0 false).pins.rst = false) ∧
    (finalState.phase = 17 ∧ finalState.phase.toNat = 17 ∧ finalState.pins.rst = false) := by decide +kernel

/-- DecodeInvertsEncode, EncodingsLoseNothing. -/
theorem test_witness_encode :
    (Instr.start 5 7).wellFormed = true ∧ encode (.start 5 7) = some (.ctrl (controlWord false true 5 7)) ∧
    encodedAt (.start 5 7) 0 = true ∧ encodedAt .nop 17 = true ∧ encodedAt .nop 18 = false ∧
    encode .final = some (.seq 17) ∧ encodedAt .final 3 = true ∧ decoded (decodeWord 3 (.seq 17)) = some .final := by
  decide +kernel

/-- StepRunsDecodedOperation: no line, an `edge` line, a `wait` line, a `read` line. -/
theorem test_witness_lines :
    (idleState.script = [] ∧ decoded (decodeEdge idleState.phase idleState.pins.rst idleState.pins.start
      idleState.pins.blockIn idleState.pins.keyIn) = some .idle) ∧
    ((State.onEdge finalState false true 3 4).script = .edge ⟨false, true, 3, 4⟩ :: [] ∧
      decoded (decodeEdge finalState.phase false true 3 4) = some .final) ∧
    ({ idleState with script := [.wait, .read] } : State).script = .wait :: [.read] ∧
    ({ idleState with script := [.read] } : State).script = .read :: [] := by decide +kernel

/-- EdgeFollowsPriority, ResetClearsEveryRegister, ResetStateValues, OutputWriters, ReservedPhaseHasOnlyReset: an `edge` line in
every case of the priority, each with its outcome. -/
theorem test_witness_priority :
    (State.onEdge reservedState true true 3 4).script = .edge ⟨true, true, 3, 4⟩ :: [] ∧ 18 ≤ reservedState.phase.toNat ∧
    after (step (State.onEdge reservedState true true 3 4)) = some ⟨0, 0, 0, 0, 0, 0, false⟩ ∧
    refusalOf (step (State.onEdge reservedState false true 3 4)) = some .reservedPhase ∧
    18 ≤ (regs 18 0 0 0 0 0 false).phase.toNat ∧
    refusalOf (exec .wait (regs 18 0 0 0 0 0 false)) = some .reservedPhase ∧
    after (step (State.onEdge (regs 0 1 2 3 4 5 true) false false 3 4)) = some ⟨0, 1, 2, 3, 4, 5, true⟩ ∧
    after (step (State.onEdge (regs 0 1 2 3 4 5 true) false true 0 0)) = some ⟨1, 0, 0, 0, 0, 5, false⟩ ∧
    after (step (State.onEdge (regs 17 0 0 3 4 5 false) false true 3 4)) = some ⟨0, 0, 0, 3, 4, 0, true⟩ := by
  decide +kernel

/-- ReservedPhaseHasOnlyReset, ReadSamplesOutputPins: no line with each level of the held `rst`, a `wait` and a `read` line
with `done = 1`, and `READ` on both sides of the last legal `phase`. -/
theorem test_witness_reserved :
    (reservedState.script = [] ∧ refusalOf (step reservedState) = some .reservedPhase) ∧
    after (step { reservedState with pins := reservedState.pins.reset }) = some ⟨0, 0, 0, 0, 0, 0, false⟩ ∧
    reservedState.done = true ∧ refusalOf (step { reservedState with script := [.wait] }) = some .reservedPhase ∧
    refusalOf (step { reservedState with script := [.read] }) = some .reservedPhase ∧
    finalState.phase.toNat ≤ 17 ∧ answerOf (exec .read finalState) = some (.sample 0 true false) ∧
    18 ≤ (regs 18 0 0 0 0 0 false).phase.toNat ∧
    refusalOf (exec .read (regs 18 0 0 0 0 0 false)) = some .reservedPhase := by decide +kernel

/-- StartLoadsOperands, IdleHoldsOrStarts, EncryptScriptExpansion (its IDLE clause), WaitRepeatsNop: an idle core, with and without a request. -/
theorem test_witness_idle :
    idleState.phase = 0 ∧ idleState.phase.toNat = 0 ∧ idleState.pins.rst = false ∧ idleState.pins.start = false ∧
    idleState.done = false ∧ ({ idleState with pins := Pins.request 3 4 } : State).pins.start = true ∧
    ({ idleState with pins := Pins.request 3 4 } : State).pins.rst = false := by decide +kernel

/-- StartWhileBusyIsIgnored: both ends of the range, and pins that differ. -/
theorem test_witness_busy :
    (1 ≤ roundState.phase.toNat ∧ roundState.phase.toNat ≤ 17) ∧ (1 ≤ finalState.phase.toNat ∧ finalState.phase.toNat ≤ 17) ∧
    (⟨false, true, 1, 2⟩ : Pins).rst = false ∧ (⟨false, false, 3, 4⟩ : Pins).rst = false := by decide +kernel

/-- MicroOperationsNeedTheirPhase: another `phase`, and `rst = 1`. -/
theorem test_witness_not_selected :
    ¬(finalState.phase.toNat = 0 ∧ finalState.pins.rst = false) ∧ refusalOf (exec .idle finalState) = some .notSelected ∧
    ¬((regs 1 0 0 0 0 0 false).phase.toNat = 17 ∧ (regs 1 0 0 0 0 0 false).pins.rst = false) ∧
    refusalOf (exec .final { finalState with pins := finalState.pins.reset }) = some .notSelected := by decide +kernel

/-- PermSelectsPositions, PermRejectsBadTables: the least and the greatest entry allowed, and the two next to them; a record
with one bad table, and one with two, of which the first is reported (log entry 16). -/
theorem test_witness_tables :
    (∀ t ∈ [1, 3], 1 ≤ t ∧ t ≤ 3) ∧ (∃ t ∈ [3, 0], t < 1 ∨ t > 3) ∧ (∃ t ∈ [4], t < 1 ∨ t > 3) ∧
    refusalOf (exec (.perm [3, 0] 3 0) idleState) = some (.configurationError ⟨.given [3, 0], 2⟩) ∧
    refusalOf (exec (.perm [4] 3 0) idleState) = some (.configurationError ⟨.given [4], 1⟩) ∧
    tablesCheck { tables with pc2 := [1, 56, 57] } = some ⟨.pc2, 3⟩ ∧ tablesCheck { tables with e := [32, 0], p := [33] } = some ⟨.e, 2⟩ := by
  decide +kernel

/-- PermLaws: a well-formed table, and a permutation of the positions with its inverse table. -/
theorem test_witness_perm_laws :
    tableWellFormed [2, 3, 1] 3 = true ∧ [2, 3, 1].Perm (List.range' 1 3) ∧ [3, 1, 2].length = 3 ∧
    (∀ i, 1 ≤ i → i ≤ 3 → [3, 1, 2].getD ([2, 3, 1].getD (i - 1) 0 - 1) 0 = i) := by
  refine ⟨by decide, by decide, rfl, ?_⟩
  intro i h1 h2
  obtain rfl | rfl | rfl : i = 1 ∨ i = 2 ∨ i = 3 := by omega
  all_goals rfl

/-- PermutationUnitsFollowTables: the first and last output positions, in range of each table. -/
theorem test_witness_positions :
    (ip 0x0000000000000040).getLsbD (64 - 1) = true ∧ ipTable.getD (1 - 1) 0 = 58 ∧
    (fp 0x0000000000000080).getLsbD (64 - 64) = false ∧ fpTable.getD (64 - 1) 0 = 25 := by decide +kernel

/-- ParityBitsIgnored: the mask of R113's example. -/
theorem test_witness_parity_mask :
    (0x0100010101000100 : Block) &&& 0xFEFEFEFEFEFEFEFE = 0 ∧
    (0x133457799BBCDFF1 : Block) ^^^ 0x0100010101000100 = 0x123456789ABCDEF1 := by decide

/-- SboxUnitsReadTheirTables, SubstitutionIsNibblewise, SboxesHoldRomListing: the first and the last S-box. -/
theorem test_witness_sbox_range :
    0 < 8 ∧ 7 < 8 ∧ answerOf (exec ((sboxOps 0b011000).getD 0 .nop) idleState) = some (.bits 4 5) ∧
    answerOf (exec ((sboxOps 0b100111).getD 7 .nop) idleState) = some (.bits 4 7) := by decide +kernel

/-- RoundFunctionComplement (a): two pairs of operands with one key-mixed value. -/
theorem test_witness_same_mixed_value :
    expand 0 ^^^ 0 = expand 0xFFFFFFFF ^^^ 0xFFFFFFFFFFFF := by decide +kernel

/-- RotationWithinTwentyEightBits: the positions where its two clauses meet. -/
theorem test_witness_rotation_positions :
    shiftAmount .two < 3 ∧ 3 ≤ 28 ∧ 1 ≤ 2 ∧ 2 ≤ shiftAmount .two ∧
    pos (rotl28 0x2000000 .two) (3 - 2) = true ∧ pos (rotl28 0x4000000 .two) (28 - 2 + 2) = true := by decide +kernel

/-- ExpansionChunks, KeyScheduleAccumulates, KeyScheduleLaws, SubkeyBitsAreKeyBits, EncryptUnitRunsSixteenRounds: the ends of
the index ranges (values of 95_test_vectors.md, sections 2.1 to 2.3). -/
theorem test_witness_index_ranges :
    (0 < 8 ∧ 7 < 8 ∧ 0 < 6 ∧ 5 < 6 ∧ pos (chunk (expand 0x00000001) 0) (0 + 1) = true ∧
      pos (chunk (expand 0x80000000) 7) (5 + 1) = true) ∧
    (0 < 16 ∧ 15 < 16 ∧ (ks 0x133457799BBCDFF1).getD 0 0 = 0x1B02EFFC7072 ∧
      (ks 0x133457799BBCDFF1).getD 15 0 = 0xCB3D8B0E17F5) ∧
    (1 ≤ 1 ∧ 48 ≤ 48 ∧ pos (subkey 0x133457799BBCDFF1 15) 1 = true ∧ pos (subkey 0x133457799BBCDFF1 0) 48 = false) := by
  decide +kernel

/-- EncryptIsBijective: a value that a plaintext gives. -/
theorem test_witness_encrypt_value : encrypt 0x8000000000000000 0x0101010101010101 = 0x95F8A5E5DD31D900 := by
  decide +kernel

/-- TransactionKeepsRegisters: no further edge, and sixteen, with the other pins at any level. -/
theorem test_witness_transaction :
    idleState.phase.toNat = 0 ∧ ([] : List Pins).length ≤ 16 ∧
    (List.replicate 16 (⟨false, true, 1, 2⟩ : Pins)).length ≤ 16 ∧
    (∀ e ∈ List.replicate 16 (⟨false, true, 1, 2⟩ : Pins), e.rst = false) ∧
    ({ idleState with script := .edge (Pins.request 3 4) ::
      ((List.replicate 16 (⟨false, true, 1, 2⟩ : Pins)).map Line.edge ++ [.read]) } : State).script =
      .edge (Pins.request 3 4) :: ((List.replicate 16 (⟨false, true, 1, 2⟩ : Pins)).map Line.edge ++ [.read]) := by
  decide +kernel

/-- TransactionDeliversCiphertext: 17 further edges and two idle ones. -/
theorem test_witness_delivery :
    idleState.phase.toNat = 0 ∧ (List.replicate 17 (⟨false, true, 1, 2⟩ : Pins)).length = 17 ∧
    (∀ e ∈ List.replicate 17 (⟨false, true, 1, 2⟩ : Pins), e.rst = false) ∧
    (∀ e ∈ List.replicate 2 (⟨false, false, 1, 2⟩ : Pins), e.rst = false ∧ e.start = false) ∧
    ({ idleState with script := .edge (Pins.request 3 4) :: ((List.replicate 17 (⟨false, true, 1, 2⟩ : Pins)).map Line.edge ++
      ((List.replicate 2 (⟨false, false, 1, 2⟩ : Pins)).map Line.edge ++ [.read])) } : State).script =
      .edge (Pins.request 3 4) :: ((List.replicate 17 (⟨false, true, 1, 2⟩ : Pins)).map Line.edge ++
      ((List.replicate 2 (⟨false, false, 1, 2⟩ : Pins)).map Line.edge ++ [.read])) := by decide +kernel

/-- PinsInsideTransactionDoNotMatter: the longest sequence, at `phase = 1`, with pins that differ. -/
theorem test_witness_two_runs :
    let a : List Pins := List.replicate 17 ⟨false, true, 1, 2⟩
    let b : List Pins := List.replicate 17 ⟨false, false, 3, 4⟩
    State.SameRegisters { roundState with script := a.map Line.edge } { roundState with script := b.map Line.edge } ∧
    1 ≤ roundState.phase.toNat ∧ roundState.phase.toNat ≤ 17 ∧ a.length = b.length ∧
    a.length + roundState.phase.toNat ≤ 18 ∧ (∀ e ∈ a, e.rst = false) ∧ (∀ e ∈ b, e.rst = false) := by decide +kernel

/-- IdleIsReachedWithinSeventeenEdges, LegalStatesNeverStop, EncryptScriptExpansion: legal states, and 17 edges without reset. -/
theorem test_witness_progress :
    roundState.phase.toNat ≤ 17 ∧ finalState.phase.toNat ≤ 17 ∧ (List.replicate 17 (⟨false, true, 1, 2⟩ : Pins)).length = 17 ∧
    (∀ e ∈ List.replicate 17 (⟨false, true, 1, 2⟩ : Pins), e.rst = false) ∧
    ({ roundState with script := (List.replicate 17 (⟨false, true, 1, 2⟩ : Pins)).map Line.edge ++ [] } : State).script =
      (List.replicate 17 (⟨false, true, 1, 2⟩ : Pins)).map Line.edge ++ [] := by decide +kernel

/-- TransactionsAreIndependent: two idle states whose registers differ, before the same transaction. -/
theorem test_witness_independent :
    ({ regs 0 1 2 3 4 5 true with script := encryptLines 8 9 } : State).phase.toNat = 0 ∧
    ({ idleState with script := encryptLines 8 9 } : State).phase.toNat = 0 ∧
    ({ regs 0 1 2 3 4 5 true with script := encryptLines 8 9 } : State).script = encryptLines 8 9 ∧
    ({ idleState with script := encryptLines 8 9 } : State).script = encryptLines 8 9 := by decide +kernel

/-- EveryStepKeepsInvariant: the invariant at reset, inside a transaction and with a result, and a step from each. -/
theorem test_witness_invariant :
    State.reset.Inv ∧ roundState.Inv ∧ (regs 0 0x43423234 0x0A4CD995 0xF0CCAAF 0x556678F 0x85E813540F0AB405 true).Inv ∧
    (after (step (State.onEdge State.reset false true 3 4))).isSome = true ∧
    (after (step (State.onEdge roundState false true 3 4))).isSome = true := by decide +kernel

/-- NoRequestNoResult: edges without `start`, and an edge with `start` and `rst`. -/
theorem test_witness_no_request :
    State.SameRegisters { State.reset with script := [.edge ⟨false, false, 1, 2⟩, .edge ⟨true, true, 3, 4⟩] } State.reset ∧
    (∀ e ∈ [(⟨false, false, 1, 2⟩ : Pins), ⟨true, true, 3, 4⟩], e.start = false ∨ e.rst = true) ∧
    ({ State.reset with script := [.edge ⟨false, false, 1, 2⟩, .edge ⟨true, true, 3, 4⟩] } : State).script =
      [(⟨false, false, 1, 2⟩ : Pins), ⟨true, true, 3, 4⟩].map Line.edge ++ [] := by decide +kernel

/-- UnitsWriteNoRegister, CommandsWriteOnlyRegisters: an operation of each kind that completes. -/
theorem test_witness_kinds :
    (Instr.ip 0).format ≠ .ctrl ∧ (Instr.ip 0).format ≠ .seq ∧ Instr.ip 0 ≠ .wait ∧ (answerOf (exec (.ip 0) idleState)).isSome = true ∧
    Instr.reset.format = .ctrl ∧ (after (exec .reset idleState)).isSome = true ∧
    Instr.rnd0.format = .seq ∧ (after (exec .rnd0 roundState)).isSome = true := by decide +kernel

theorem test_witness_no_script : ∀ b k : Block, Instr.ip 0 ≠ .encryptScript b k := by
  intro b k h; cases h

/-- WaitRepeatsNop: a result present, none in IDLE, none at the first round and at FINAL. -/
theorem test_witness_wait :
    ((regs 0 0 0 0 0 5 true).done = true ∧ (regs 0 0 0 0 0 5 true).phase.toNat ≤ 17) ∧
    (idleState.done = false ∧ idleState.phase.toNat = 0) ∧ (roundState.done = false ∧ 1 ≤ roundState.phase.toNat) ∧
    (finalState.done = false ∧ finalState.phase.toNat = 17) := by decide +kernel

/-- CodecDecodes: each clause, at the greatest value that fits and the least that does not. -/
theorem test_witness_codec :
    (CodecTarget.width 8 = .width 8 ∧ 255 < 2 ^ 8 ∧ 2 ^ 8 ≤ 256) ∧ (CodecTarget.block = .block ∧ 64 = 64) ∧
    (∃ c ∈ ['Z'], c ∉ "0123456789ABCDEFabcdef".toList) ∧ "0123456789ABCDE".toList.length ≠ 16 ∧
    (∀ c ∈ "133457799bbcdff1".toList, c ∈ "0123456789ABCDEFabcdef".toList) ∧ "133457799bbcdff1".toList.length = 16 :=
  ⟨by decide, by decide, by simp, by decide +kernel, by simp, by decide +kernel⟩

/-- CodecEncodes: a length that is no multiple of 4. CodecRoundTrip: the text of section 2.6. -/
theorem test_witness_encode_length :
    6 % 4 ≠ 0 ∧ refusalOf (exec (.encode 6 0) idleState) = some .encodeLength ∧
    (∀ c ∈ "00ff".toList, c ∈ "0123456789ABCDEFabcdef".toList) ∧
    decodeText? (.text "00ff".toList) (.width 16) = some 0xFF ∧ encodeText (0xFF : BitVec 16) = "00FF".toList :=
  ⟨by decide, by decide +kernel, by simp, by decide +kernel⟩

end Sys2Proof.Tests
end

/-! # What holds of every state and every edge (10_state.md)

First the rules that several statements share: what an edge line can do, what keeps the invariant, what an operation
leaves of the host's side. Then the statements, each assembled from them. -/

namespace Sys2Proof.Machine

/-! ## What an edge line does -/

/-- Everything a step at an `edge` line can do when it completes, one case per rule of R150. -/
theorem step_edge_cases {s t : State} {p : Pins} {rest : List Line} (hline : s.script = .edge p :: rest)
    (h : step s = .next t) :
    let u : State := { s with pins := p, script := rest }
    (p.rst = true ∧ t = u.applyReset) ∨
      (p.rst = false ∧ s.phase.toNat = 0 ∧ p.start = true ∧ t = u.loadStart p.blockIn p.keyIn) ∨
      (p.rst = false ∧ s.phase.toNat = 0 ∧ p.start = false ∧ t = u) ∨
      (p.rst = false ∧ ∃ i < 16, s.phase.toNat = i + 1 ∧ t = u.applyRound i) ∨
      (p.rst = false ∧ s.phase.toNat = 17 ∧ t = u.applyFinal) := by
  intro u
  rw [step_edge hline] at h
  cases hr : p.rst with
  | true =>
    rw [if_pos hr] at h
    cases h
    exact .inl ⟨rfl, rfl⟩
  | false =>
    rw [if_neg (by simp [hr])] at h
    right
    split at h
    · next hstart =>
      cases h
      exact .inl ⟨rfl, hstart.1, hstart.2, rfl⟩
    · next hstart =>
      rcases State.sequence_cases h with ⟨h0, ht⟩ | hround | hfinal
      · exact .inr (.inl ⟨rfl, h0, by simpa using fun e => hstart ⟨h0, e⟩, ht⟩)
      · exact .inr (.inr (.inl ⟨rfl, hround⟩))
      · exact .inr (.inr (.inr ⟨rfl, hfinal⟩))

/-- RESET at an edge, from any state whatever (R151). -/
theorem step_edge_reset {s : State} {p : Pins} {rest : List Line} (hline : s.script = .edge p :: rest)
    (hr : p.rst = true) : step s = .next (State.applyReset { s with pins := p, script := rest }) := by
  rw [step_edge hline]
  exact if_pos hr

/-- An edge in IDLE without a request changes the host's side alone (R153). -/
theorem step_edge_idle {s : State} {p : Pins} {rest : List Line} (hline : s.script = .edge p :: rest)
    (hr : p.rst = false) (hstart : p.start = false) (h0 : s.phase.toNat = 0) :
    step s = .next { s with pins := p, script := rest } := by
  rw [step_edge hline]
  simp only [hr, hstart, Bool.false_eq_true, and_false, if_false]
  exact State.sequence_idle h0

/-- RESET leaves the registers of `State.reset` (R46). -/
theorem State.applyReset_sameRegisters (s : State) : s.applyReset.SameRegisters State.reset :=
  ⟨rfl, rfl, rfl, rfl, rfl, rfl, rfl⟩

/-- A run that begins with a completed step is the rest of the run from that step's state. -/
theorem core_run_succ {s t : State} (n : Nat) (h : step s = .next t) :
    Sys2Proof.core.run (n + 1) s = Sys2Proof.core.run n t := by
  have hstep : Sys2Proof.core.step s = .next t := h
  simp only [Host.Core.run, hstep]

/-! ## The invariant -/

theorem State.busy_eq_true_iff (s : State) : s.busy = true ↔ s.phase.toNat ≠ 0 := by
  simp [State.busy, BitVec.toNat_eq]

/-- The invariant speaks of registers alone. -/
theorem State.Inv.of_sameRegisters {s t : State} (hs : s.Inv) (h : s.SameRegisters t) : t.Inv := by
  obtain ⟨hL, hR, -, -, hphase, hOUT, hdone⟩ := h
  simpa [State.Inv, State.Legal, State.busy, hL, hR, hphase, hOUT, hdone] using hs

/-- Outside IDLE no result is shown (R43 (b)). -/
theorem State.Inv.done_eq_false {s : State} (hs : s.Inv) (hphase : s.phase.toNat ≠ 0) : s.done = false := by
  obtain ⟨-, hexcl, -⟩ := hs
  exact Bool.eq_false_iff.mpr fun hdone => hexcl ⟨(s.busy_eq_true_iff).mpr hphase, hdone⟩

/-- A legal state that shows no result has the invariant. -/
theorem State.inv_of_not_done {s : State} (hlegal : s.Legal) (hdone : s.done = false) : s.Inv :=
  ⟨hlegal, by simp [hdone], by simp [hdone]⟩

theorem State.applyReset_inv (s : State) : s.applyReset.Inv :=
  State.inv_of_not_done (by simp) rfl

theorem State.loadStart_inv (s : State) (b k : Block) : (s.loadStart b k).Inv :=
  State.inv_of_not_done (by simp) rfl

/-- A round moves to the next of `phase` 2..17 and shows no result, since none was shown before it. -/
theorem State.Inv.after_applyRound {s : State} {i : Nat} (hs : s.Inv) (hi : i < 16) (hphase : s.phase.toNat = i + 1) :
    (s.applyRound i).Inv := by
  have hdone : s.done = false := hs.done_eq_false (by omega)
  refine State.inv_of_not_done ?_ hdone
  simp only [State.Legal, State.applyRound_phase]
  bv_omega

/-- FINAL returns to IDLE with the output of the pair it leaves in `L`, `R` (R156). -/
theorem State.applyFinal_inv (s : State) : s.applyFinal.Inv :=
  ⟨by simp, by simp [State.busy], fun _ => rfl⟩

theorem State.Inv.after_sequence {s t : State} (hs : s.Inv) (h : s.sequence = .next t) : t.Inv := by
  rcases State.sequence_cases h with ⟨-, rfl⟩ | ⟨i, hi, hphase, rfl⟩ | ⟨-, rfl⟩
  · exact hs
  · exact hs.after_applyRound hi hphase
  · exact s.applyFinal_inv

theorem State.Inv.after_nopLine {s t : State} (hs : s.Inv) (h : s.nopLine = .next t) : t.Inv :=
  State.Inv.after_sequence (s := { s with pins := s.pins.idle }) hs h

theorem State.Inv.after_edge {s t : State} {p : Pins} {rest : List Line} (hs : s.Inv)
    (hline : s.script = .edge p :: rest) (h : step s = .next t) : t.Inv := by
  have hu : State.Inv { s with pins := p, script := rest } := hs
  rcases step_edge_cases hline h with
    ⟨-, rfl⟩ | ⟨-, -, -, rfl⟩ | ⟨-, -, -, rfl⟩ | ⟨-, i, hi, hphase, rfl⟩ | ⟨-, -, rfl⟩
  · exact State.applyReset_inv _
  · exact State.loadStart_inv _ _ _
  · exact hu
  · exact hu.after_applyRound hi hphase
  · exact State.applyFinal_inv _

theorem State.Inv.after_wait {s t : State} (hs : s.Inv) (h : execWait s = .next t) : t.Inv := by
  obtain ⟨-, h⟩ := State.ifLegal_cases h
  split at h
  · next u hu =>
    cases h
    have hkept : u.Inv := State.nopUntilDone_keeps State.Inv (fun _ _ => State.Inv.after_nopLine) hs hu
    exact hkept.of_sameRegisters (by simp [State.SameRegisters])
  · cases h
  · cases h

theorem State.Inv.after_read {s t : State} (hs : s.Inv) (h : execRead s = .next t) : t.Inv := by
  obtain ⟨-, h⟩ := State.ifLegal_cases h
  cases h
  exact hs

/-- Settles O48, by the kind of the host's next line; with no line left the step is that of an edge with the held
pins. -/
theorem everyStepKeepsInvariant : Obligations.EveryStepKeepsInvariant := by
  intro s t hs h
  cases hscript : s.script with
  | nil =>
    rw [step_held hscript] at h
    exact State.Inv.after_edge (s := { s with script := [.edge s.pins] }) hs rfl h
  | cons line rest =>
    have hu : State.Inv { s with script := rest } := hs
    cases line with
    | edge p => exact hs.after_edge hscript h
    | wait => exact hu.after_wait (step_wait hscript ▸ h)
    | read => exact hu.after_read (step_read hscript ▸ h)

/-- Settles O49: the state after reset is what RESET leaves of it. -/
theorem resetStateHasInvariant : Obligations.ResetStateHasInvariant :=
  State.reset.applyReset_inv

/-! ## What edges write, and the reset state -/

/-- Settles O51, by the case of R150 that the edge is. -/
theorem outputWriters : Obligations.OutputWriters := by
  intro s t p rest hline h
  rcases step_edge_cases hline h with
    ⟨hr, rfl⟩ | ⟨hr, h0, hstart, rfl⟩ | ⟨hr, h0, hstart, rfl⟩ |
    ⟨hr, i, hi, hphase, rfl⟩ | ⟨hr, h17, rfl⟩
  · simp [hr]
  · simp [hr, h0, hstart]
  · simp [hr, h0, hstart]
  · have hnotFinal : s.phase.toNat ≠ 17 := by omega
    have hnotIdle : s.phase.toNat ≠ 0 := by omega
    simp [hr, hnotFinal, hnotIdle]
  · simp [hr, h17, joinHalves]

/-- Settles O9: an edge with `rst = 1` is RESET, which leaves the registers of `State.reset`. -/
theorem resetStateValues : Obligations.ResetStateValues := by
  refine ⟨rfl, rfl, rfl, rfl, rfl, rfl, rfl, rfl, rfl, ?_⟩
  intro s p rest hline hr
  exact ⟨_, step_edge_reset hline hr, State.applyReset_sameRegisters _, rfl, rfl⟩

/-- One edge without an accepted START keeps the reset registers. -/
theorem step_edge_of_reset_registers {s : State} {p : Pins} {rest : List Line} (hs : s.SameRegisters State.reset)
    (hline : s.script = .edge p :: rest) (hp : p.start = false ∨ p.rst = true) :
    ∃ t, step s = .next t ∧ t.script = rest ∧ t.SameRegisters State.reset := by
  cases hr : p.rst with
  | true => exact ⟨_, step_edge_reset hline hr, rfl, State.applyReset_sameRegisters _⟩
  | false =>
    have hstart : p.start = false := hp.resolve_right (by simp [hr])
    have ⟨_, _, _, _, hphase, _, _⟩ := hs
    exact ⟨_, step_edge_idle hline hr hstart (by rw [hphase]; rfl), rfl, hs⟩

/-- Settles O52, by induction on the edges. -/
theorem noRequestNoResult : Obligations.NoRequestNoResult := by
  intro s edges rest hs hedges hscript
  induction edges generalizing s with
  | nil => exact ⟨s, rfl, hscript, hs⟩
  | cons p edges ih =>
    obtain ⟨hp, hedges⟩ := List.forall_mem_cons.mp hedges
    obtain ⟨u, hstep, hrest, hu⟩ := step_edge_of_reset_registers hs hscript hp
    obtain ⟨t, hrun, ht⟩ := ih u hu hedges hrest
    exact ⟨t, (core_run_succ _ hstep).trans hrun, ht⟩

/-! ## What an operation leaves of the state -/

/-- What completes by recording an answer changed the answer alone. -/
theorem State.answered_frame {s t : State} {a : Answer}
    (h : (.next (s.answered a) : Host.Outcome State Fault Refusal) = .next t) : t = { s with answer := t.answer } := by
  cases h
  rfl

theorem execPerm_frame {table : List Nat} {win : Nat} {v : BitVec win} {s t : State}
    (h : execPerm table win v s = .next t) : t = { s with answer := t.answer } := by
  unfold execPerm at h
  split at h
  · cases h
  · exact State.answered_frame h

theorem execDecode_frame {x : CodecInput} {target : CodecTarget} {s t : State}
    (h : execDecode x target s = .next t) : t = { s with answer := t.answer } := by
  unfold execDecode at h
  split at h
  · exact State.answered_frame h
  · cases h

theorem execEncode_frame {bits : Nat} {v : BitVec bits} {s t : State}
    (h : execEncode bits v s = .next t) : t = { s with answer := t.answer } := by
  unfold execEncode at h
  split at h
  · exact State.answered_frame h
  · cases h

theorem execRead_frame {s t : State} (h : execRead s = .next t) : t = { s with answer := t.answer } :=
  State.answered_frame (State.ifLegal_cases h).2

/-- Settles O53, by the operation: a unit that always answers does so through `State.answered`, the four that can refuse
have their own lemma, and the others are excluded by the hypotheses. -/
theorem unitsWriteNoRegister : Obligations.UnitsWriteNoRegister := by
  intro i s t hctrl hseq hwait hscript h
  cases i with
  | reset | start | nop => exact absurd rfl hctrl
  | idle | rnd0 | rnd1 | rnd2 | rnd3 | rnd4 | rnd5 | rnd6 | rnd7 | rnd8 | rnd9 | rnd10 | rnd11 | rnd12 | rnd13 | rnd14
  | rnd15 | final => exact absurd rfl hseq
  | encryptScript b k => exact absurd rfl (hscript b k)
  | wait => exact absurd rfl hwait
  | perm => exact execPerm_frame h
  | decode => exact execDecode_frame h
  | encode => exact execEncode_frame h
  | read => exact execRead_frame h
  | ip | fp | pc1 | pc2 | expand | pbox | sbox0 | sbox1 | sbox2 | sbox3 | sbox4 | sbox5 | sbox6 | sbox7 | rotl28 | ks
  | sub | f | round | encrypt => exact State.answered_frame h

/-- The model's own fields agree: pins, script and answer (log entries 1 and 2); the registers may differ. -/
abbrev State.SameHostSide (s t : State) : Prop := t.pins = s.pins ∧ t.script = s.script ∧ t.answer = s.answer

theorem State.sequence_sameHostSide {s t : State} (h : s.sequence = .next t) : s.SameHostSide t := by
  rcases State.sequence_cases h with ⟨-, rfl⟩ | ⟨i, -, -, rfl⟩ | ⟨-, rfl⟩ <;> exact ⟨rfl, rfl, rfl⟩

theorem State.request_sameHostSide {s t : State} {b k : Block} (h : s.request b k = .next t) : s.SameHostSide t := by
  rcases State.request_cases h with ⟨-, rfl⟩ | ⟨i, -, -, rfl⟩ | ⟨-, rfl⟩ <;> exact ⟨rfl, rfl, rfl⟩

theorem State.microRound_sameHostSide {s t : State} {i : Nat} (h : s.microRound i = .next t) : s.SameHostSide t := by
  obtain ⟨-, -, rfl⟩ := State.microRound_cases h
  exact ⟨rfl, rfl, rfl⟩

theorem execReset_sameHostSide {s t : State} (h : execReset s = .next t) : s.SameHostSide t := by
  cases h
  exact ⟨rfl, rfl, rfl⟩

theorem execIdle_sameHostSide {s t : State} (h : execIdle s = .next t) : s.SameHostSide t := by
  unfold execIdle at h
  split at h
  · split at h <;> cases h <;> exact ⟨rfl, rfl, rfl⟩
  · cases h

theorem execFinal_sameHostSide {s t : State} (h : execFinal s = .next t) : s.SameHostSide t := by
  unfold execFinal at h
  split at h <;> cases h
  exact ⟨rfl, rfl, rfl⟩

/-- Settles O54, by the operation: the formats CTRL and SEQ are the three commands and the eighteen micro-operations. -/
theorem commandsWriteOnlyRegisters : Obligations.CommandsWriteOnlyRegisters := by
  intro i s t hformat h
  cases i with
  | reset => exact execReset_sameHostSide h
  | start => exact State.request_sameHostSide h
  | nop => exact State.sequence_sameHostSide h
  | idle => exact execIdle_sameHostSide h
  | rnd0 | rnd1 | rnd2 | rnd3 | rnd4 | rnd5 | rnd6 | rnd7 | rnd8 | rnd9 | rnd10 | rnd11 | rnd12 | rnd13 | rnd14
  | rnd15 => exact State.microRound_sameHostSide h
  | final => exact execFinal_sameHostSide h
  | perm | ip | fp | pc1 | pc2 | expand | pbox | sbox0 | sbox1 | sbox2 | sbox3 | sbox4 | sbox5 | sbox6 | sbox7 | rotl28
  | ks | sub | f | round | encrypt | decode | encode | encryptScript | wait | read => simp [Instr.format] at hformat

end Sys2Proof.Machine

/-! # The encodings and the tables (30_encoding.md)

First the facts that several statements share: what the two decoders answer, what the constant tables hold, what the
host's lines do to the registers. Then the statements, each assembled from them. -/

namespace Sys2Proof.Machine

/-! ## What the decoders answer -/

theorem decodeCtrl_start {p : Phase} (h : p.toNat = 0) (b k : Block) :
    decodeCtrl p false true b k = .ok (.start b k) := by
  simp [decodeCtrl, h]

/-- During a transaction `start` is not looked at (R68). -/
theorem decodeCtrl_busy {p : Phase} (h1 : 1 ≤ p.toNat) (h17 : p.toNat ≤ 17) (start : Bool) (b k : Block) :
    decodeCtrl p false start b k = .ok .nop := by
  have h0 : p.toNat ≠ 0 := by omega
  simp [decodeCtrl, h0, h17]

/-- No request at a legal `phase` is NOP (R68). -/
theorem decodeCtrl_nop {p : Phase} (h : p.toNat ≤ 17) (b k : Block) : decodeCtrl p false false b k = .ok .nop := by
  by_cases h0 : p.toNat = 0
  · simp [decodeCtrl, h0]
  · exact decodeCtrl_busy (by omega) h false b k

theorem decodeCtrl_reserved {p : Phase} (h : 18 ≤ p.toNat) (start : Bool) (b k : Block) :
    decodeCtrl p false start b k = .error .reservedPhase := by
  have h0 : p.toNat ≠ 0 := by omega
  have h17 : ¬p.toNat ≤ 17 := by omega
  simp [decodeCtrl, h0, h17]

/-- The decoder of `phase` and the encoder's sequencer words are inverse tables (R72). -/
theorem decodeSeq_eq_ok_iff (p : Phase) (i : Instr) : decodeSeq p = .ok i ↔ encode i = some (.seq p) := by
  constructor
  · intro h
    unfold decodeSeq at h
    split at h
    case h_19 => cases h
    all_goals
      next hp =>
      cases h
      exact congrArg (some ∘ Encoding.seq) (BitVec.eq_of_toNat_eq hp).symm
  · intro h
    cases i <;> cases h <;> rfl

theorem decodeSeq_reserved {p : Phase} (h : 18 ≤ p.toNat) : decodeSeq p = .error .reservedPhase := by
  unfold decodeSeq
  split
  case h_19 => rfl
  all_goals omega

theorem decodeSeq_microOp {q : Nat} (h : q < 18) : decodeSeq (BitVec.ofNat 5 q) = .ok (microOps.getD q .nop) := by
  interval_cases q <;> rfl

/-! The fields of a control word are the pins it was made from (log entry 9). -/

theorem wordRst_controlWord (rst start : Bool) (b k : Block) : wordRst (controlWord rst start b k) = rst := by
  simp only [wordRst, controlWord, BitVec.getLsbD_append]
  simp

theorem wordStart_controlWord (rst start : Bool) (b k : Block) : wordStart (controlWord rst start b k) = start := by
  simp only [wordStart, controlWord, BitVec.getLsbD_append]
  simp

theorem wordBlock_controlWord (rst start : Bool) (b k : Block) : wordBlock (controlWord rst start b k) = b := by
  rw [wordBlock, controlWord, BitVec.extractLsb'_append_eq_of_add_le (by decide)]
  exact BitVec.extractLsb'_append_eq_left

theorem wordKey_controlWord (rst start : Bool) (b k : Block) : wordKey (controlWord rst start b k) = k :=
  BitVec.extractLsb'_append_eq_left

theorem padding_controlWord (rst start : Bool) (b k : Block) : (controlWord rst start b k).extractLsb' 2 6 = 0 := by
  rw [controlWord, BitVec.extractLsb'_append_eq_of_add_le (by decide),
    BitVec.extractLsb'_append_eq_of_add_le (by decide)]
  exact BitVec.extractLsb'_append_eq_left

/-- Decoding a control word is decoding the pins it was made from (R68). -/
theorem decodeWord_controlWord (p : Phase) (rst start : Bool) (b k : Block) :
    decodeWord p (.ctrl (controlWord rst start b k)) = decodeCtrl p rst start b k := by
  simp only [decodeWord, padding_controlWord, wordRst_controlWord, wordStart_controlWord, wordBlock_controlWord,
    wordKey_controlWord, if_true]

/-- Settles O4: a sequencer word is decoded through the table of R72, a control word through the pins it was made from;
only the three commands are encoded in one. -/
theorem decodeInvertsEncode : Obligations.DecodeInvertsEncode := by
  intro i e p _ he hp
  cases e with
  | seq q => exact (decodeSeq_eq_ok_iff q i).mpr he
  | ctrl w =>
    cases i <;> cases he
    case ctrl.reset.refl => exact decodeWord_controlWord _ _ _ _ _
    case ctrl.start.refl =>
      have h0 : p = 0 := by simpa [encodedAt] using hp
      exact (decodeWord_controlWord _ _ _ _ _).trans (decodeCtrl_start (by simp [h0]) _ _)
    case ctrl.nop.refl =>
      have hlegal : p.toNat ≤ 17 := by simpa [encodedAt] using hp
      exact (decodeWord_controlWord _ _ _ _ _).trans (decodeCtrl_nop hlegal 0 0)

/-- Settles O5: both halves are what the round trip O4 rests on. -/
theorem encodingsLoseNothing : Obligations.EncodingsLoseNothing :=
  ⟨decodeWord_controlWord, fun p _ i h => (decodeSeq_eq_ok_iff p i).mp h⟩

/-- Settles O1, row by row of R68. -/
theorem controlPinsDecode : Obligations.ControlPinsDecode := by
  intro p start b k
  exact ⟨rfl, fun h => decodeCtrl_start h b k, fun h => decodeCtrl_nop (by omega) b k,
    fun ⟨h1, h17⟩ => decodeCtrl_busy h1 h17 start b k, fun h => decodeCtrl_reserved h start b k⟩

/-- Settles O3: each word is a literal of the two formats. -/
theorem tableWordsDecode : Obligations.TableWordsDecode := by
  unfold Obligations.TableWordsDecode
  decide

/-! ## What the constant tables hold (R91) -/

/-- Which values a well-formed table holds is decided among the positions of its input: it holds no other. -/
theorem mem_table_iff {table dropped : List Nat} {win : Nat} (hwf : tableWellFormed table win = true)
    (hpositions : ∀ t < win + 1, t ∈ table ↔ 1 ≤ t ∧ t ≤ win ∧ t ∉ dropped) (t : Nat) :
    t ∈ table ↔ 1 ≤ t ∧ t ≤ win ∧ t ∉ dropped := by
  by_cases ht : t < win + 1
  · exact hpositions t ht
  · have hmem : t ∈ table → t ≤ win := fun h => (of_decide_eq_true (List.all_eq_true.mp hwf t h)).2
    exact ⟨fun h => absurd (hmem h) (by omega), fun h => absurd h.2.1 (by omega)⟩

/-- R91 (b): `FP` and `IP` are inverse tables. -/
theorem fpTable_ipTable_inverse : ∀ i, 1 ≤ i → i ≤ 64 →
    fpTable.getD (ipTable.getD (i - 1) 0 - 1) 0 = i ∧ ipTable.getD (fpTable.getD (i - 1) 0 - 1) 0 = i := by
  have h : ∀ i < 65, 1 ≤ i →
      fpTable.getD (ipTable.getD (i - 1) 0 - 1) 0 = i ∧ ipTable.getD (fpTable.getD (i - 1) 0 - 1) 0 = i := by decide
  exact fun i h1 h64 => h i (by omega) h1

/-- R91 (c): `PC1` drops the low bit of each key byte and takes every other bit once. -/
theorem pc1Table_positions : pc1Table.length = 56 ∧ pc1Table.Nodup ∧
    ∀ t, t ∈ pc1Table ↔ (1 ≤ t ∧ t ≤ 64 ∧ t ∉ [8, 16, 24, 32, 40, 48, 56, 64]) :=
  ⟨pc1_length, by decide, mem_table_iff (by decide) (by decide)⟩

/-- R91 (d): `PC2` drops eight positions, and takes its first half from C, its second from D. -/
theorem pc2Table_positions : pc2Table.length = 48 ∧ pc2Table.Nodup ∧
    (∀ t, t ∈ pc2Table ↔ (1 ≤ t ∧ t ≤ 56 ∧ t ∉ [9, 18, 22, 25, 35, 38, 43, 54])) ∧
    (∀ t ∈ pc2Table.take 24, t ≤ 28) ∧ (∀ t ∈ pc2Table.drop 24, 29 ≤ t) :=
  ⟨pc2_length, by decide, mem_table_iff (by decide) (by decide), by decide, by decide⟩

/-- R91 (e): `E` takes every position once and the edge bits of each nibble twice. -/
theorem eTable_count : ∀ t, 1 ≤ t → t ≤ 32 →
    eTable.count t = if t ∈ [1, 4, 5, 8, 9, 12, 13, 16, 17, 20, 21, 24, 25, 28, 29, 32] then 2 else 1 := by
  have h : ∀ t < 33, 1 ≤ t →
      eTable.count t = if t ∈ [1, 4, 5, 8, 9, 12, 13, 16, 17, 20, 21, 24, 25, 28, 29, 32] then 2 else 1 := by decide
  exact fun t h1 h32 => h t (by omega) h1

/-- R91 (g): every row of every S-box is a permutation of 0..15. -/
theorem sbox_rows_perm : ∀ k < 8, ∀ row < 4, ((tables.sbox.getD k []).getD row []).Perm (List.range 16) := by
  decide

/-- Settles O22: R91 (a) to (h), each read off the constant tables. -/
theorem tableProperties : Obligations.TableProperties :=
  ⟨by decide, ⟨by decide, by decide, fpTable_ipTable_inverse⟩, pc1Table_positions, pc2Table_positions,
    ⟨eTable_count, by decide⟩, by decide, sbox_rows_perm, by decide⟩

/-- Settles O23: the 512 entries, read in the order of the ROM listing. -/
theorem sboxesHoldRomListing : Obligations.SboxesHoldRomListing := by
  unfold Obligations.SboxesHoldRomListing
  decide +kernel

/-- Permutations by inverse tables undo each other: position j is taken from where the first put it (R102). -/
theorem permute_permute_of_inverse {table inverse : List Nat} {n : Nat} (htable : table.length = n)
    (hinverse : inverse.length = n) (hwf : tableWellFormed inverse n = true)
    (hcancel : ∀ i, 1 ≤ i → i ≤ n → table.getD (inverse.getD (i - 1) 0 - 1) 0 = i) (v : BitVec n) :
    permute n inverse (permute n table v) = v := by
  apply eq_of_pos
  intro j h1 hn
  obtain ⟨hj1, hjn⟩ := tableWellFormed_getD hwf (j := j - 1) (by omega)
  calc pos (permute n inverse (permute n table v)) j
      = pos (permute n table v) (inverse.getD (j - 1) 0) := pos_permute hinverse _ h1 hn
    _ = pos v (table.getD (inverse.getD (j - 1) 0 - 1) 0) := pos_permute htable v hj1 hjn
    _ = pos v j := by rw [hcancel j h1 hn]

/-- Settles O24: the two tables are inverse to each other. -/
theorem finalAndInitialPermutationInverse : Obligations.FinalAndInitialPermutationInverse := by
  intro v
  constructor
  · exact permute_permute_of_inverse ip_length fp_length (by decide)
      (fun i h1 h64 => (fpTable_ipTable_inverse i h1 h64).2) v
  · exact permute_permute_of_inverse fp_length ip_length (by decide)
      (fun i h1 h64 => (fpTable_ipTable_inverse i h1 h64).1) v

/-! ## What an operation or a line does at each `phase` -/

/-- The legal values of `phase`: IDLE, the sixteen rounds, FINAL (R30). -/
theorem State.Legal.cases {s : State} (h : s.Legal) :
    s.phase.toNat = 0 ∨ (∃ i < 16, s.phase.toNat = i + 1) ∨ s.phase.toNat = 17 := by
  by_cases h0 : s.phase.toNat = 0
  · exact .inl h0
  · by_cases h17 : s.phase.toNat = 17
    · exact .inr (.inr h17)
    · exact .inr (.inl ⟨s.phase.toNat - 1, by simp only [State.Legal] at h; omega, by omega⟩)

/-- A round moves to the next `phase` value. -/
theorem State.applyRound_phase_toNat {s : State} {i : Nat} (hi : i < 16) (hphase : s.phase.toNat = i + 1) :
    (s.applyRound i).phase.toNat = i + 2 := by
  rw [State.applyRound_phase]
  bv_omega

theorem execIdle_hold {s : State} (hphase : s.phase = 0) (hr : s.pins.rst = false) (hstart : s.pins.start = false) :
    execIdle s = .next s := by
  simp [execIdle, State.selects, hphase, hr, hstart]

theorem execIdle_start {s : State} (hphase : s.phase = 0) (hr : s.pins.rst = false) (hstart : s.pins.start = true) :
    execIdle s = .next (s.loadStart s.pins.blockIn s.pins.keyIn) := by
  simp [execIdle, State.selects, hphase, hr, hstart]

theorem State.request_idle {s : State} (h : s.phase.toNat = 0) (b k : Block) :
    s.request b k = .next (s.loadStart b k) := by
  rw [State.request, if_pos h]

theorem State.request_busy {s : State} (h : s.phase.toNat ≠ 0) (b k : Block) : s.request b k = s.sequence := by
  rw [State.request, if_neg h]

/-- Settles O13: with `start = 1` IDLE is the accepted START. -/
theorem idleHoldsOrStarts : Obligations.IdleHoldsOrStarts := by
  intro s hphase hr
  refine ⟨execIdle_hold hphase hr, fun hstart => ?_⟩
  have hidle : exec .idle s = .next (s.loadStart s.pins.blockIn s.pins.keyIn) := execIdle_start hphase hr hstart
  exact ⟨hidle.trans (State.request_idle (by simp [hphase]) _ _).symm, _, hidle, rfl, rfl, rfl⟩

/-- The next `phase` of a micro-operation of R72 other than IDLE: it does what `phase` alone decides. -/
theorem exec_microOp_phase {q : Nat} (h0 : q ≠ 0) (hq : q < 18) {s : State} (hphase : s.phase = BitVec.ofNat 5 q)
    (hr : s.pins.rst = false) :
    ∃ t, exec (microOps.getD q .nop) s = .next t ∧ t.phase.toNat = if q = 17 then 0 else q + 1 := by
  have hnat : s.phase.toNat = q := by rw [hphase, BitVec.toNat_ofNat]; omega
  rw [exec_decodeSeq hr (fun h => absurd h (by omega)) (hphase ▸ decodeSeq_microOp hq)]
  by_cases h17 : q = 17
  · exact ⟨_, State.sequence_final (by omega), by simp [h17]⟩
  · have hround : s.phase.toNat = q - 1 + 1 := by omega
    refine ⟨_, State.sequence_round (by omega) hround, ?_⟩
    rw [State.applyRound_phase_toNat (by omega) hround, if_neg h17]
    omega

/-- Settles O2: the table of R72, then the next `phase` of IDLE and of the other micro-operations. -/
theorem phaseSelectsMicroOperation : Obligations.PhaseSelectsMicroOperation := by
  refine ⟨fun p h => decodeSeq_reserved h, fun q hq => decodeSeq_microOp hq, by decide, fun q hq s hphase hr => ?_⟩
  by_cases h0 : q = 0
  · subst h0
    cases hstart : s.pins.start with
    | false => exact ⟨s, execIdle_hold hphase hr hstart, by simp [hphase]⟩
    | true => exact ⟨_, execIdle_start hphase hr hstart, by simp⟩
  · rw [if_neg h0]
    exact exec_microOp_phase h0 hq hphase hr

/-! ## A reserved `phase` (R75) -/

/-- At an edge from a reserved `phase` without RESET the step is refused, whatever the other pins are. -/
theorem step_edge_reserved {s : State} {p : Pins} {rest : List Line} (hline : s.script = .edge p :: rest)
    (hr : p.rst = false) (hphase : 18 ≤ s.phase.toNat) : step s = .refused .reservedPhase := by
  have h0 : s.phase.toNat ≠ 0 := by omega
  rw [step_edge hline]
  simp only [hr, h0, false_and, Bool.false_eq_true, if_false]
  exact State.sequence_reserved hphase

theorem State.request_reserved {s : State} (h : 18 ≤ s.phase.toNat) (b k : Block) :
    s.request b k = .refused .reservedPhase :=
  (State.request_busy (by omega) b k).trans (State.sequence_reserved h)

theorem execWait_reserved {s : State} (h : 18 ≤ s.phase.toNat) : execWait s = .refused .reservedPhase :=
  State.ifLegal_reserved h

theorem execRead_reserved {s : State} (h : 18 ≤ s.phase.toNat) : execRead s = .refused .reservedPhase :=
  State.ifLegal_reserved h

/-- `ENCRYPT <block>, <key>` stops where its first line does. -/
theorem execEncryptScript_reserved {s : State} (h : 18 ≤ s.phase.toNat) (b k : Block) :
    execEncryptScript b k s = .refused .reservedPhase := by
  have hline : s.startLine b k = .refused .reservedPhase :=
    State.request_reserved (s := { s with pins := Pins.request b k }) h b k
  rw [execEncryptScript, hline]

/-- Settles O17, by the host's next line; with no line left the step is that of an edge with the held pins. -/
theorem reservedPhaseHasOnlyReset : Obligations.ReservedPhaseHasOnlyReset := by
  intro s hphase
  refine ⟨fun p rest hline => ?_, fun rest hline => ?_, State.sequence_reserved hphase,
    fun b k => ⟨State.request_reserved hphase b k, execEncryptScript_reserved hphase b k⟩,
    execWait_reserved hphase, execRead_reserved hphase⟩
  · rcases hline with hline | ⟨hnil, rfl⟩
    · exact ⟨fun hr => ⟨_, step_edge_reset hline hr, rfl, rfl, rfl, rfl, rfl, rfl, rfl⟩,
        fun hr => step_edge_reserved hline hr hphase⟩
    · rw [step_held hnil]
      exact ⟨fun hr => ⟨_, step_edge_reset rfl hr, rfl, rfl, rfl, rfl, rfl, rfl, rfl⟩,
        fun hr => step_edge_reserved rfl hr hphase⟩
  · rcases hline with hline | hline
    · exact (step_wait hline).trans (execWait_reserved hphase)
    · exact (step_read hline).trans (execRead_reserved hphase)

/-! ## READ -/

/-- `busy` in the words of R33. -/
theorem State.busy_eq_decide (s : State) : s.busy = decide (s.phase.toNat ≠ 0) := by
  rw [Bool.eq_iff_iff, decide_eq_true_iff, s.busy_eq_true_iff]

/-- Format `STAT`: bit 1 is `busy`, bit 0 is `done` (R69). -/
theorem State.stat_bits (s : State) : s.stat.getLsbD 1 = s.busy ∧ s.stat.getLsbD 0 = s.done := by
  simp only [State.stat, BitVec.getLsbD_append]
  simp

/-- Settles O57: READ answers under the guard of a legal `phase`. -/
theorem readSamplesOutputPins : Obligations.ReadSamplesOutputPins := by
  intro s
  rw [← s.busy_eq_decide]
  exact ⟨fun hlegal => State.ifLegal_legal hlegal, execRead_reserved, s.stat_bits⟩

/-! ## One edge, by the registers alone -/

theorem State.SameRegisters.refl (s : State) : s.SameRegisters s := ⟨rfl, rfl, rfl, rfl, rfl, rfl, rfl⟩

/-- The registers agree whatever pins the host drives and whatever lines it has left. -/
theorem State.SameRegisters.hostSide {s t : State} (h : s.SameRegisters t) (p q : Pins) (before after : List Line) :
    State.SameRegisters { s with pins := p, script := before } { t with pins := q, script := after } :=
  h

/-- An edge without a request never stops from a legal `phase`, and leaves a legal one. -/
theorem State.Legal.sequence_next {s : State} (h : s.Legal) : ∃ t, s.sequence = .next t ∧ t.Legal := by
  rcases h.cases with h0 | ⟨i, hi, hphase⟩ | h17
  · exact ⟨s, State.sequence_idle h0, h⟩
  · refine ⟨_, State.sequence_round hi hphase, ?_⟩
    rw [State.Legal, State.applyRound_phase_toNat hi hphase]
    omega
  · exact ⟨_, State.sequence_final h17, by simp⟩

/-- An edge with a request never stops from a legal `phase` either. -/
theorem State.Legal.request_next {s : State} (h : s.Legal) (b k : Block) :
    ∃ t, s.request b k = .next t ∧ t.Legal := by
  by_cases h0 : s.phase.toNat = 0
  · exact ⟨_, State.request_idle h0 b k, by simp⟩
  · rw [State.request_busy h0]
    exact h.sequence_next

theorem State.SameRegisters.applyRound {s t : State} (h : s.SameRegisters t) (i : Nat) :
    (s.applyRound i).SameRegisters (t.applyRound i) := by
  obtain ⟨hL, hR, hC, hD, hphase, hOUT, hdone⟩ := h
  simp [State.SameRegisters, State.roundSubkey_eq, hL, hR, hC, hD, hphase, hOUT, hdone]

theorem State.SameRegisters.applyFinal {s t : State} (h : s.SameRegisters t) :
    s.applyFinal.SameRegisters t.applyFinal := by
  obtain ⟨hL, hR, hC, hD, -, -, -⟩ := h
  simp [State.SameRegisters, hL, hR, hC, hD]

theorem State.SameRegisters.loadStart {s t : State} (h : s.SameRegisters t) (b k : Block) :
    (s.loadStart b k).SameRegisters (t.loadStart b k) := by
  obtain ⟨-, -, -, -, -, hOUT, -⟩ := h
  simp [State.SameRegisters, hOUT]

/-- What an edge without a request does to the registers depends on the registers alone (R153). -/
theorem State.SameRegisters.sequence {s s' t : State} (hreg : s.SameRegisters s') (h : s.sequence = .next t) :
    ∃ t', s'.sequence = .next t' ∧ t.SameRegisters t' := by
  have ⟨_, _, _, _, hphase, _, _⟩ := hreg
  rcases State.sequence_cases h with ⟨h0, rfl⟩ | ⟨i, hi, hround, rfl⟩ | ⟨h17, rfl⟩
  · exact ⟨s', State.sequence_idle (hphase ▸ h0), hreg⟩
  · exact ⟨_, State.sequence_round hi (hphase ▸ hround), hreg.applyRound i⟩
  · exact ⟨_, State.sequence_final (hphase ▸ h17), hreg.applyFinal⟩

/-- What an edge with a request does to the registers depends on the registers and the operands alone (R152, R153). -/
theorem State.SameRegisters.request {s s' t : State} {b k : Block} (hreg : s.SameRegisters s')
    (h : s.request b k = .next t) : ∃ t', s'.request b k = .next t' ∧ t.SameRegisters t' := by
  have ⟨_, _, _, _, hphase, _, _⟩ := hreg
  by_cases h0 : s.phase.toNat = 0
  · rw [State.request_idle h0] at h
    cases h
    exact ⟨_, State.request_idle (hphase ▸ h0) b k, hreg.loadStart b k⟩
  · rw [State.request_busy h0] at h
    rw [State.request_busy (hphase ▸ h0)]
    exact hreg.sequence h

/-- The step at an edge line without `rst` and `start` is the edge without a request. -/
theorem step_edge_noRequest {s : State} {p : Pins} {rest : List Line} (hline : s.script = .edge p :: rest)
    (hr : p.rst = false) (hstart : p.start = false) :
    step s = State.sequence { s with pins := p, script := rest } := by
  rw [step_edge hline]
  simp [hr, hstart]

/-- The step at a `START` line is the edge with a request. -/
theorem step_edge_request {s : State} {b k : Block} {rest : List Line}
    (hline : s.script = .edge (Pins.request b k) :: rest) :
    step s = State.request { s with pins := Pins.request b k, script := rest } b k := by
  rw [step_edge hline]
  simp [Pins.request, State.request]

/-! ## `NOP n` as one operation and as n lines of the script -/

/-- Where the first of n + 1 edges completes, the rest are n edges from there. -/
theorem State.nopLines_succ {s t : State} (n : Nat) (h : s.nopLine = .next t) :
    State.nopLines (n + 1) s = State.nopLines n t := by
  rw [State.nopLines, h]

theorem State.nopLines_succ_cases {n : Nat} {s t : State} (h : State.nopLines (n + 1) s = .next t) :
    ∃ v, s.nopLine = .next v ∧ State.nopLines n v = .next t := by
  simp only [State.nopLines] at h
  split at h
  · next v hv => exact ⟨v, hv, h⟩
  · cases h
  · cases h

/-- `NOP n` never stops from a legal `phase`. -/
theorem State.Legal.nopLines_next {s : State} (n : Nat) (h : s.Legal) : ∃ t, State.nopLines n s = .next t := by
  induction n generalizing s with
  | zero => exact ⟨s, rfl⟩
  | succ n ih =>
    obtain ⟨u, hu, hlegal⟩ := State.Legal.sequence_next (s := { s with pins := s.pins.idle }) h
    rw [State.nopLines_succ n hu]
    exact ih hlegal

/-- A line of the host changes the pins alone of the host's side. -/
theorem State.nopLine_script {s t : State} (h : s.nopLine = .next t) : t.script = s.script ∧ t.answer = s.answer :=
  (State.sequence_sameHostSide h).2

theorem State.nopLines_script {n : Nat} {s t : State} (h : State.nopLines n s = .next t) :
    t.script = s.script ∧ t.answer = s.answer :=
  State.nopLines_keeps (fun u => u.script = s.script ∧ u.answer = s.answer)
    (fun _ _ ⟨hscript, hanswer⟩ huv =>
      ⟨(State.nopLine_script huv).1.trans hscript, (State.nopLine_script huv).2.trans hanswer⟩) ⟨rfl, rfl⟩ h

/-- Running the lines of `NOP n` leaves the registers that `NOP n` leaves (R92). -/
theorem core_run_nopScript {n : Nat} {s s' t : State} {rest : List Line} (hreg : s.SameRegisters s')
    (h : State.nopLines n s = .next t) (hscript : s'.script = nopScript n ++ rest) :
    ∃ u, Sys2Proof.core.run n s' = .next u ∧ u.script = rest ∧ t.SameRegisters u := by
  induction n generalizing s s' with
  | zero =>
    cases h
    exact ⟨s', rfl, hscript, hreg⟩
  | succ n ih =>
    obtain ⟨v, hv, h⟩ := State.nopLines_succ_cases h
    have hline : s'.script = .edge ⟨false, false, 0, 0⟩ :: (nopScript n ++ rest) := hscript
    have hdriven := hreg.hostSide s.pins.idle ⟨false, false, 0, 0⟩ s.script (nopScript n ++ rest)
    obtain ⟨v', hv', hregv⟩ := hdriven.sequence hv
    obtain ⟨u, hu, hrest, hregu⟩ := ih hregv h (State.sequence_sameHostSide hv').2.1
    exact ⟨u, (core_run_succ n ((step_edge_noRequest hline rfl rfl).trans hv')).trans hu, hrest, hregu⟩

/-! ## A transaction delivers `ENCRYPT` (R161, R165) -/

/-- The subkeys of consecutive rounds, from the halves before the first of them (R116). -/
theorem subkeysFrom_range' (key : Block) (i n : Nat) :
    subkeysFrom ((List.range' i n).map shiftAt) (cdState key i) = (List.range' i n).map (subkey key) := by
  induction n generalizing i with
  | zero => rfl
  | succ n ih =>
    simp only [List.range'_succ, List.map_cons, subkeysFrom]
    exact congrArg (subkey key i :: ·) (ih (i + 1))

theorem ks_eq_map_subkey (key : Block) : ks key = (List.range' 0 16).map (subkey key) := by
  have hshift : tables.shift = (List.range' 0 16).map shiftAt := by decide
  rw [ks, hshift]
  exact subkeysFrom_range' key 0 16

/-- Consecutive rounds take a pair to the pair that many rounds on (R141). -/
theorem rounds_range' (p key : Block) (i n : Nat) :
    rounds ((List.range' i n).map (subkey key)) (pairAt p key i) = pairAt p key (i + n) := by
  induction n generalizing i with
  | zero => rfl
  | succ n ih =>
    simp only [List.range'_succ, List.map_cons, rounds]
    exact (ih (i + 1)).trans (congrArg (pairAt p key) (by omega))

/-- `ENCRYPT` is the final permutation of the swapped pair after sixteen rounds (R138, R142). -/
theorem encrypt_eq_finalBlock (p key : Block) : encrypt p key = finalBlock (pairAt p key 16) := by
  rw [encrypt, ks_eq_map_subkey]
  exact congrArg finalBlock (rounds_range' p key 0 16)

theorem State.inTransaction_loadStart (s : State) (p key : Block) : (s.loadStart p key).InTransaction p key 1 :=
  ⟨by decide, by decide, rfl, rfl, rfl, rfl⟩

/-- With the key halves of step i the round's subkey is `K[i]` (R116, R154). -/
theorem State.roundSubkey_eq_subkey {s : State} {key : Block} {i : Nat} (h : (s.C, s.D) = cdState key i) :
    s.roundSubkey i = subkey key i := by
  rw [State.roundSubkey, State.rotatedKey, h, subkey, cdState]

/-- A round of a transaction takes the pair and the key halves one round on (R154, R161). -/
theorem State.InTransaction.applyRound {p key : Block} {i : Nat} {s : State} (hi : i < 16)
    (h : s.InTransaction p key (i + 1)) : (s.applyRound i).InTransaction p key (i + 2) := by
  obtain ⟨-, -, hphase, hpair, hkey, hdone⟩ := h
  simp only [Nat.add_sub_cancel] at hpair hkey
  refine ⟨by omega, by omega, State.applyRound_phase_toNat hi hphase, ?_, ?_, hdone⟩
  · calc ((s.applyRound i).L, (s.applyRound i).R)
        = feistelRound (s.L, s.R).1 (s.L, s.R).2 (s.roundSubkey i) := rfl
      _ = pairAt p key (i + 1) := by rw [State.roundSubkey_eq_subkey hkey, hpair, pairAt]
  · calc ((s.applyRound i).C, (s.applyRound i).D)
        = rotatePair (s.C, s.D) (shiftAt i) := rfl
      _ = cdState key (i + 1) := by rw [hkey, cdState]

/-- At FINAL the pre-output block is that of the sixteenth pair (R156). -/
theorem State.InTransaction.applyFinal_OUT {p key : Block} {s : State} (h : s.InTransaction p key 17) :
    s.applyFinal.OUT = encrypt p key := by
  obtain ⟨-, -, -, hpair, -, -⟩ := h
  rw [encrypt_eq_finalBlock, ← hpair]
  rfl

/-- From `phase = q` of a transaction 18 - q edges leave IDLE with the ciphertext (R165). -/
theorem State.InTransaction.nopLines {p key : Block} {k q : Nat} {s : State} (h : s.InTransaction p key q)
    (hk : q + k = 18) :
    ∃ t, State.nopLines k s = .next t ∧ t.phase = 0 ∧ t.done = true ∧ t.OUT = encrypt p key := by
  induction k generalizing q s with
  | zero => exact absurd h.2.1 (by omega)
  | succ k ih =>
    have hu : State.InTransaction p key q { s with pins := s.pins.idle } := h
    have ⟨h1, h17, hphase, _, _, _⟩ := hu
    by_cases hq : q = 17
    · subst hq
      obtain rfl : k = 0 := by omega
      rw [State.nopLines_succ 0 (State.sequence_final hphase)]
      exact ⟨_, rfl, rfl, rfl, hu.applyFinal_OUT⟩
    · obtain ⟨i, rfl⟩ := Nat.exists_eq_add_of_le' h1
      rw [State.nopLines_succ k (State.sequence_round (by omega) hphase)]
      exact ih (hu.applyRound (by omega)) (by omega)

/-- `ENCRYPT <block>, <key>` is a START line and then `NOP 17` (R92). -/
theorem execEncryptScript_eq {s v : State} {b k : Block} (h : s.startLine b k = .next v) :
    execEncryptScript b k s = State.nopLines 17 v := by
  rw [execEncryptScript, h]

/-- From IDLE `ENCRYPT <block>, <key>` leaves the ciphertext (R165). -/
theorem execEncryptScript_idle {s : State} (h : s.phase.toNat = 0) (b k : Block) :
    ∃ t, execEncryptScript b k s = .next t ∧ t.phase = 0 ∧ t.done = true ∧ t.OUT = encrypt b k := by
  rw [execEncryptScript_eq (State.request_idle (s := { s with pins := Pins.request b k }) h b k)]
  exact (State.inTransaction_loadStart _ b k).nopLines rfl

/-- Settles O55: the START line and each NOP line do to the registers what the same line of the script does. -/
theorem encryptScriptExpansion : Obligations.EncryptScriptExpansion := by
  intro s b k hlegal
  obtain ⟨v, hv, hvlegal⟩ := State.Legal.request_next (s := { s with pins := Pins.request b k }) hlegal b k
  obtain ⟨t, ht⟩ := hvlegal.nopLines_next 17
  have hexec : execEncryptScript b k s = .next t := (execEncryptScript_eq hv).trans ht
  have ⟨_, hvscript, hvanswer⟩ := State.request_sameHostSide hv
  have ⟨htscript, htanswer⟩ := State.nopLines_script ht
  refine ⟨t, hexec, htscript.trans hvscript, htanswer.trans hvanswer, fun h0 => ?_, fun rest => ?_⟩
  · obtain ⟨t', ht', hdelivered⟩ := execEncryptScript_idle h0 b k
    obtain rfl : t = t' := Host.Outcome.next.inj (hexec.symm.trans ht')
    exact hdelivered
  · let lines : State := { s with script := encryptLines b k ++ rest }
    have hline : lines.script = .edge (Pins.request b k) :: (nopScript 17 ++ rest) := rfl
    have hdriven := (State.SameRegisters.refl s).hostSide (Pins.request b k) (Pins.request b k) s.script
      (nopScript 17 ++ rest)
    obtain ⟨v', hv', hreg⟩ := hdriven.request hv
    obtain ⟨u, hu, hrest, hregu⟩ := core_run_nopScript hreg ht (State.request_sameHostSide hv').2.1
    exact ⟨u, (core_run_succ 17 ((step_edge_request hline).trans hv')).trans hu, hrest, hregu⟩

/-! ## WAIT -/

theorem State.nopUntilDone_done {s : State} (h : s.done = true) (n : Nat) : State.nopUntilDone n s = .next s := by
  cases n <;> simp [State.nopUntilDone, h]

theorem State.nopUntilDone_succ {s t : State} (hdone : s.done = false) (n : Nat) (h : s.nopLine = .next t) :
    State.nopUntilDone (n + 1) s = State.nopUntilDone n t := by
  simp only [State.nopUntilDone, hdone, h, Bool.false_eq_true, if_false]

/-- In IDLE without a result the edges of `WAIT` change the held pins alone, however many they are (R153). -/
theorem State.nopUntilDone_idle {s : State} (hdone : s.done = false) (h0 : s.phase.toNat = 0) (n : Nat) :
    State.nopUntilDone (n + 1) s = .next { s with pins := s.pins.idle } := by
  have hline : s.nopLine = .next { s with pins := s.pins.idle } := State.sequence_idle h0
  induction n generalizing s with
  | zero => exact State.nopUntilDone_succ hdone 0 hline
  | succ n ih =>
    rw [State.nopUntilDone_succ hdone (n + 1) hline]
    exact ih (s := { s with pins := s.pins.idle }) hdone h0 (State.sequence_idle h0)

/-- During a transaction, k edges before its end, the edges of `WAIT` are those of `NOP k`, and end with FINAL. -/
theorem State.nopUntilDone_busy {s : State} {k n : Nat} (hdone : s.done = false) (h1 : 1 ≤ s.phase.toNat)
    (h17 : s.phase.toNat ≤ 17) (hk : s.phase.toNat + k = 18) (hn : k ≤ n) :
    ∃ t, State.nopUntilDone n s = .next t ∧ State.nopLines k s = .next t ∧ t.done = true ∧ t.phase = 0 := by
  induction k generalizing s n with
  | zero => omega
  | succ k ih =>
    obtain ⟨n, rfl⟩ : ∃ m, n = m + 1 := ⟨n - 1, by omega⟩
    rcases State.Legal.cases h17 with h0 | ⟨i, hi, hround⟩ | hfinal
    · omega
    · let u : State := { s with pins := s.pins.idle }
      have hline : s.nopLine = .next (u.applyRound i) := State.sequence_round hi hround
      have hphase : (u.applyRound i).phase.toNat = i + 2 := State.applyRound_phase_toNat hi hround
      rw [State.nopUntilDone_succ hdone n hline, State.nopLines_succ k hline]
      exact ih hdone (by omega) (by omega) (by omega) (by omega)
    · obtain rfl : k = 0 := by omega
      have hline : s.nopLine = .next (State.applyFinal { s with pins := s.pins.idle }) := State.sequence_final hfinal
      rw [State.nopUntilDone_succ hdone n hline, State.nopLines_succ 0 hline, State.nopUntilDone_done rfl]
      exact ⟨_, rfl, rfl, rfl, rfl⟩

/-- What `WAIT` leaves where its edges complete (R92; log entry 10). -/
theorem execWait_eq {s t : State} (hlegal : s.Legal) (h : State.nopUntilDone 17 s = .next t) :
    execWait s = .next t.waitEnded := by
  rw [execWait, State.ifLegal_legal hlegal, h]

theorem State.waitEnded_of_done {s : State} (h : s.done = true) : s.waitEnded = s := by
  rw [State.waitEnded, if_pos h]

theorem State.waitEnded_of_not_done {s : State} (h : s.done = false) :
    s.waitEnded = { s with script := .wait :: s.script } := by
  rw [State.waitEnded, if_neg (by simp [h])]

/-- Settles O56, by where the machine is at the start: with a result, in IDLE without one, in a transaction. -/
theorem waitRepeatsNop : Obligations.WaitRepeatsNop := by
  intro s hlegal
  refine ⟨fun hdone => ?_, fun hdone h0 => ?_, fun hdone h1 => ?_⟩
  · have hwait := execWait_eq hlegal (State.nopUntilDone_done hdone 17)
    rwa [State.waitEnded_of_done hdone] at hwait
  · have hwait := execWait_eq hlegal (State.nopUntilDone_idle hdone h0 16)
    rwa [State.waitEnded_of_not_done (s := { s with pins := s.pins.idle }) hdone] at hwait
  · obtain ⟨t, huntil, hlines, htdone, htphase⟩ :=
      State.nopUntilDone_busy (k := 18 - s.phase.toNat) (n := 17) hdone h1 hlegal (by omega) (by omega)
    have hwait := execWait_eq hlegal huntil
    rw [State.waitEnded_of_done htdone] at hwait
    have hdriven := (State.SameRegisters.refl s).hostSide s.pins s.pins s.script (nopScript (18 - s.phase.toNat))
    obtain ⟨u, hrun, -, hreg⟩ := core_run_nopScript hdriven hlines (List.append_nil _).symm
    exact ⟨t, u, hwait, htdone, htphase, (State.nopLines_script hlines).1, hrun, hreg⟩

end Sys2Proof.Machine

/-! # The codec (40_bitcodec.md)

A digit and its value, then a text and its value: `hexText` writes the `n` digits of a value and `hexValue?` reads them
back. The three statements say this of `decode` and `encode`. -/

namespace Sys2Proof.Machine

/-! ## One digit -/

/-- The characters that `decode` accepts in a text (R94). -/
abbrev IsHexDigit (c : Char) : Prop := c ∈ "0123456789ABCDEFabcdef".toList

/-- A hexadecimal digit has a value below 16, which is written as the digit in upper case (R93, R95). -/
theorem hexDigit?_of_isHexDigit : ∀ c, IsHexDigit c → ∃ d < 16, hexDigit? c = some d ∧ hexChar d = c.toUpper :=
  List.forall_iff_forall_mem.mp (by decide)

theorem hexDigit?_of_not_isHexDigit {c : Char} (h : ¬IsHexDigit c) : hexDigit? c = none := by
  have hascii : ∀ n < 128, hexDigit? (Char.ofNat n) = none ∨ IsHexDigit (Char.ofNat n) := by decide
  by_cases hc : c.toNat < 128
  · have hchar := hascii c.toNat hc
    rw [Char.ofNat_toNat] at hchar
    exact hchar.resolve_right h
  · have hle : ∀ b : Char, b.toNat < 128 → ¬c ≤ b := fun b hb hcb => hc (lt_of_le_of_lt hcb hb)
    simp [hexDigit?, hle]

theorem hexDigit?_hexChar : ∀ d < 16, hexDigit? (hexChar d) = some d := by decide

/-- A digit whose upper case is the digit of `d` has the value `d`: lower case is read as upper case (R94). -/
theorem hexDigit?_of_toUpper {c : Char} {d : Nat} (hc : IsHexDigit c) (hd : d < 16)
    (h : c.toUpper = hexChar d) : hexDigit? c = some d := by
  obtain ⟨e, he, hdigit, hupper⟩ := hexDigit?_of_isHexDigit c hc
  have hvalues : some e = some d :=
    calc some e = hexDigit? (hexChar e) := (hexDigit?_hexChar e he).symm
      _ = hexDigit? (hexChar d) := by rw [hupper, h]
      _ = some d := hexDigit?_hexChar d hd
  exact hdigit.trans hvalues

theorem hexChar_eq_getD : ∀ d < 16, hexChar d = "0123456789ABCDEF".toList.getD d 'x' := by decide

/-! ## The digits of a value -/

@[simp] theorem hexText_length (n v : Nat) : (hexText n v).length = n := by
  induction n with
  | zero => rfl
  | succ n ih => simp [hexText, ih]

/-- Digit `j` of `n` is that of weight `16 ^ (n - 1 - j)` (R93, R95). -/
theorem hexText_getD (n v : Nat) {j : Nat} (hj : j < n) :
    (hexText n v).getD j 'x' = hexChar (v / 16 ^ (n - 1 - j) % 16) := by
  induction n generalizing j with
  | zero => omega
  | succ n ih =>
    cases j with
    | zero => rfl
    | succ j =>
      have hweight : n + 1 - 1 - (j + 1) = n - 1 - j := by omega
      rw [hexText, List.getD_cons_succ, ih (by omega), hweight]

/-- The low `n` digits do not depend on what stands above them. -/
theorem hexText_mul_pow_add (n a v : Nat) : hexText n (a * 16 ^ n + v) = hexText n v := by
  induction n generalizing a with
  | zero => rfl
  | succ n ih =>
    have hsplit : a * 16 ^ (n + 1) + v = a * 16 * 16 ^ n + v := by ring
    have hdigit : (a * 16 * 16 ^ n + v) / 16 ^ n % 16 = v / 16 ^ n % 16 := by
      rw [Nat.mul_comm, Nat.mul_add_div (by positivity), Nat.mul_comm a, Nat.mul_add_mod]
    rw [hexText, hsplit, hdigit, ih, hexText]

/-! ## The value of a text -/

/-- Reading the `n` digits of a value gives the value modulo `16 ^ n`, below what was read before. -/
theorem hexValue?_hexText (n v acc : Nat) : hexValue? (hexText n v) acc = some (acc * 16 ^ n + v % 16 ^ n) := by
  induction n generalizing acc with
  | zero => simp [hexText, hexValue?, Nat.mod_one]
  | succ n ih =>
    have hdigit := hexDigit?_hexChar (v / 16 ^ n % 16) (Nat.mod_lt _ (by decide))
    simp only [hexText, hexValue?, hdigit, ih, Nat.mod_pow_succ]
    congr 1
    ring

/-- Reading a text of hexadecimal digits adds, below what was read before, the value whose digits are the text in upper
case (R93, R96). -/
theorem hexValue?_of_digits {chars : List Char} (h : ∀ c ∈ chars, IsHexDigit c) :
    ∃ v < 16 ^ chars.length, hexText chars.length v = chars.map Char.toUpper ∧
      ∀ acc, hexValue? chars acc = some (acc * 16 ^ chars.length + v) := by
  induction chars with
  | nil => exact ⟨0, by simp, rfl, by simp [hexValue?]⟩
  | cons c chars ih =>
    obtain ⟨hc, hchars⟩ := List.forall_mem_cons.mp h
    obtain ⟨d, hd, hdigit, hupper⟩ := hexDigit?_of_isHexDigit c hc
    obtain ⟨v, hv, htext, hvalue⟩ := ih hchars
    refine ⟨d * 16 ^ chars.length + v, ?_, ?_, fun acc => ?_⟩
    · calc d * 16 ^ chars.length + v < (d + 1) * 16 ^ chars.length := by rw [Nat.succ_mul]; omega
        _ ≤ 16 * 16 ^ chars.length := Nat.mul_le_mul_right _ hd
        _ = 16 ^ (c :: chars).length := (Nat.pow_succ' ..).symm
    · have hfirst : (d * 16 ^ chars.length + v) / 16 ^ chars.length % 16 = d := by
        rw [Nat.mul_comm, Nat.mul_add_div (by positivity), Nat.div_eq_of_lt hv, Nat.add_zero, Nat.mod_eq_of_lt hd]
      rw [List.length_cons, hexText, hfirst, hupper, hexText_mul_pow_add, htext, List.map_cons]
    · simp only [hexValue?, hdigit, hvalue, List.length_cons]
      congr 1
      ring

/-- Digit `j` of a text is digit `j` of its value (R93). -/
theorem hexDigit?_getD_of_hexText {chars : List Char} {v j : Nat}
    (h : ∀ c ∈ chars, IsHexDigit c) (htext : hexText chars.length v = chars.map Char.toUpper)
    (hj : j < chars.length) :
    hexDigit? (chars.getD j 'x') = some (v / 16 ^ (chars.length - 1 - j) % 16) := by
  rw [List.getD_eq_getElem _ _ hj]
  refine hexDigit?_of_toUpper (h _ (List.getElem_mem hj)) (Nat.mod_lt _ (by decide)) ?_
  rw [← hexText_getD chars.length v hj, htext, List.getD_eq_getElem _ _ (by simpa using hj), List.getElem_map]

/-- A text with a character that is no hexadecimal digit has no value (R94). -/
theorem hexValue?_eq_none {chars : List Char} (h : ∃ c ∈ chars, ¬IsHexDigit c) (acc : Nat) :
    hexValue? chars acc = none := by
  induction chars generalizing acc with
  | nil => simp at h
  | cons c chars ih =>
    rcases (List.exists_mem_cons_iff ..).mp h with hc | hchars
    · rw [hexValue?, hexDigit?_of_not_isHexDigit hc]
    · cases hdigit : hexDigit? c with
      | none => rw [hexValue?, hdigit]
      | some d => simp only [hexValue?, hdigit, ih hchars]

/-! ## `decode` and `encode` -/

/-- `encode` of `4 * n` bits writes `n` digits (R95). -/
theorem encodeText_eq_hexText {n : Nat} (v : BitVec (4 * n)) : encodeText v = hexText n v.toNat := by
  rw [encodeText, Nat.mul_div_cancel_left n (by decide)]

/-- Text of `n` digits is accepted at `4 * n` bits: at 64 bits it has 16 characters (R97). -/
theorem lengthAccepted_four_mul {chars : List Char} {n : Nat} (h : chars.length = n) :
    lengthAccepted (.text chars) (.width (4 * n)) = true := by
  rw [lengthAccepted_text]
  intro h64
  have hbits : 4 * n = 64 := h64
  omega

/-- `codecValue?` of a text of hexadecimal digits is the value whose digits are the text in upper case (R93, R96). -/
theorem codecValue?_text_of_digits {chars : List Char} (h : ∀ c ∈ chars, IsHexDigit c) :
    ∃ v < 16 ^ chars.length, hexText chars.length v = chars.map Char.toUpper ∧ codecValue? (.text chars) = some v := by
  obtain ⟨v, hv, htext, hvalue⟩ := hexValue?_of_digits h
  exact ⟨v, hv, htext, (hvalue 0).trans (by simp)⟩

/-- Where `decode` has a value it answers the value, left-zero-padded to the width (R94). -/
theorem exec_decode_answers {x : CodecInput} {target : CodecTarget} {v : Nat} (h : decodeText? x target = some v)
    (s : State) : exec (.decode x target) s =
      .next { s with answer := .bits (targetBits target) (BitVec.ofNat (targetBits target) v) } := by
  change execDecode x target s = _
  rw [execDecode, h]
  rfl

/-- Where `decode` has no value it is refused (R94, R186). -/
theorem exec_decode_refused {x : CodecInput} {target : CodecTarget} (h : ∀ v, decodeText? x target ≠ some v)
    (s : State) : exec (.decode x target) s = .refused .formatError := by
  change execDecode x target s = _
  rw [execDecode, Option.eq_none_iff_forall_ne_some.mpr h]

/-- `decode` of what has a value and an accepted length turns on whether the value fits (R94, R97). -/
theorem exec_decode_of_value {x : CodecInput} {target : CodecTarget} {v : Nat}
    (hlength : lengthAccepted x target = true) (hvalue : codecValue? x = some v) (s : State) :
    exec (.decode x target) s =
      if v < 2 ^ targetBits target then
        .next { s with answer := .bits (targetBits target) (BitVec.ofNat (targetBits target) v) }
      else .refused .formatError := by
  split
  · next hfits => exact exec_decode_answers (decodeText?_eq_some.mpr ⟨hlength, hvalue, hfits⟩) s
  · next hfits =>
    refine exec_decode_refused (fun u hu => hfits ?_) s
    obtain ⟨-, hvalue', hu⟩ := decodeText?_eq_some.mp hu
    rwa [Option.some.inj (hvalue.symm.trans hvalue')]

/-- Settles O58, by what `decode` is given: an integer, which has its own value, or a text, which has the value of its
digits or none. -/
theorem codecDecodes : Obligations.CodecDecodes := by
  intro s target width htarget
  obtain rfl : width = targetBits target := by
    rcases htarget with rfl | ⟨rfl, rfl⟩ <;> rfl
  refine ⟨fun v hv => ?_, fun v hv => ?_, fun chars hbad => ?_, fun chars h64 hlength => ?_,
    fun chars hdigits hlength => ?_⟩
  · rw [exec_decode_of_value rfl rfl, if_pos hv]
  · rw [exec_decode_of_value rfl rfl, if_neg (by omega)]
  · refine exec_decode_refused (fun v h => ?_) s
    obtain ⟨-, hvalue, -⟩ := decodeText?_eq_some.mp h
    cases (hexValue?_eq_none hbad 0).symm.trans hvalue
  · refine exec_decode_refused (fun v h => ?_) s
    obtain ⟨haccepted, -, -⟩ := decodeText?_eq_some.mp h
    exact hlength ((lengthAccepted_text chars target).mp haccepted h64)
  · obtain ⟨v, hv, htext, hvalue⟩ := codecValue?_text_of_digits hdigits
    exact ⟨v, hv, fun j hj => hexDigit?_getD_of_hexText hdigits htext hj,
      exec_decode_of_value ((lengthAccepted_text chars target).mpr hlength) hvalue s⟩

/-- Settles O59: a length of `4 * digits` is written by `hexText`, whose digits are known. -/
theorem codecEncodes : Obligations.CodecEncodes := by
  refine ⟨fun s digits v => ⟨hexText digits v.toNat, ?_, hexText_length _ _, fun j hj => ?_⟩,
    fun s bits v hbits => ?_⟩
  · change execEncode (4 * digits) v s = _
    rw [execEncode, if_pos (Nat.mul_mod_right 4 digits), encodeText_eq_hexText]
    rfl
  · rw [hexText_getD _ _ hj, hexChar_eq_getD _ (Nat.mod_lt _ (by decide))]
  · change execEncode bits v s = _
    rw [execEncode, if_neg hbits]

/-- Settles O60: `hexText` and `hexValue?` are inverse where the value has as many digits as the text. -/
theorem codecRoundTrip : Obligations.CodecRoundTrip := by
  refine ⟨fun digits v => ?_, fun chars hdigits => ?_⟩
  · have hvalue : codecValue? (.text (encodeText v)) = some v.toNat := by
      have hfits : v.toNat < 16 ^ digits := lt_of_lt_of_eq v.isLt (Nat.pow_mul 2 4 digits)
      rw [codecValue?, encodeText_eq_hexText, hexValue?_hexText, Nat.mod_eq_of_lt hfits, Nat.zero_mul, Nat.zero_add]
    have hlength : (encodeText v).length = digits := by rw [encodeText_eq_hexText, hexText_length]
    exact decodeText?_eq_some.mpr ⟨lengthAccepted_four_mul hlength, hvalue, v.isLt⟩
  · obtain ⟨v, hv, htext, hvalue⟩ := codecValue?_text_of_digits hdigits
    have hfits : v < 2 ^ (4 * chars.length) := lt_of_lt_of_eq hv (Nat.pow_mul 2 4 chars.length).symm
    refine ⟨v, decodeText?_eq_some.mpr ⟨lengthAccepted_four_mul rfl, hvalue, hfits⟩, ?_⟩
    rw [encodeText_eq_hexText, BitVec.toNat_ofNat, Nat.mod_eq_of_lt hfits, htext]

end Sys2Proof.Machine

/-! # The permutation engine (41_permutation_engine.md)

`pos_permute` says what `PERM` does, position by position, and `firstBadEntry_some` what the check of a table reports.
First what they give for every table, then the statements. -/

namespace Sys2Proof.Machine

/-! ## Tables and the positions they name -/

/-- The check of R101 in the words of the statements. -/
theorem tableWellFormed_iff {table : List Nat} {win : Nat} :
    tableWellFormed table win = true ↔ ∀ t ∈ table, 1 ≤ t ∧ t ≤ win := by
  simp [tableWellFormed]

/-- A value that a table holds is its entry at some 1-based index. -/
theorem exists_entry_of_mem {table : List Nat} {t : Nat} (h : t ∈ table) :
    ∃ i, 1 ≤ i ∧ i ≤ table.length ∧ table.getD (i - 1) 0 = t := by
  obtain ⟨i, hi, rfl⟩ := List.mem_iff_getElem.mp h
  exact ⟨i + 1, by omega, by omega, List.getD_eq_getElem _ _ hi⟩

/-- A table that holds every position of its input loses no bit of it. -/
theorem permute_injective {n win : Nat} {table : List Nat} (hn : table.length = n)
    (hall : ∀ p, 1 ≤ p → p ≤ win → p ∈ table) : Function.Injective (permute n table (win := win)) := by
  subst hn
  intro a b hab
  apply eq_of_pos
  intro p h1 hwin
  obtain ⟨i, hi1, hin, rfl⟩ := exists_entry_of_mem (hall p h1 hwin)
  rw [← pos_permute rfl a hi1 hin, hab, pos_permute rfl b hi1 hin]

/-- A table that inverts a permutation of the positions on one side names positions, and inverts it on the other side
too: each position is an entry of the permutation (R102). -/
theorem inverse_entry_of_perm {table inverse : List Nat} {win : Nat} (hperm : table.Perm (List.range' 1 win))
    (hinverse : ∀ i, 1 ≤ i → i ≤ win → inverse.getD (table.getD (i - 1) 0 - 1) 0 = i) {j : Nat} (h1 : 1 ≤ j)
    (hj : j ≤ win) :
    (1 ≤ inverse.getD (j - 1) 0 ∧ inverse.getD (j - 1) 0 ≤ win) ∧ table.getD (inverse.getD (j - 1) 0 - 1) 0 = j := by
  have hlength : table.length = win := by simpa using hperm.length_eq
  have hmem : j ∈ table := hperm.mem_iff.mpr (List.mem_range'_1.mpr ⟨h1, by omega⟩)
  obtain ⟨i, hi1, hin, rfl⟩ := exists_entry_of_mem hmem
  rw [hinverse i hi1 (by omega)]
  exact ⟨⟨hi1, by omega⟩, rfl⟩

/-! ## The check of a table -/

/-- What the check reports, counted from 1 as R101 does: the first entry that is no position of the input. -/
theorem firstBadEntry_one_some {win : Nat} {table : List Nat} {i : Nat} (h : firstBadEntry win table 1 = some i) :
    1 ≤ i ∧ i ≤ table.length ∧ (table.getD (i - 1) 0 < 1 ∨ table.getD (i - 1) 0 > win) ∧
      ∀ j, 1 ≤ j → j < i → 1 ≤ table.getD (j - 1) 0 ∧ table.getD (j - 1) 0 ≤ win := by
  obtain ⟨h1, hlt, hbad, hbefore⟩ := firstBadEntry_some h
  exact ⟨h1, by omega, by omega, fun j _ hj => hbefore (j - 1) (by omega)⟩

/-- `PERM` with a table that passes the check answers the permuted vector (R99). -/
theorem exec_perm_answers {table : List Nat} {win : Nat} (hwf : tableWellFormed table win = true) (v : BitVec win)
    (s : State) :
    exec (.perm table win v) s = .next { s with answer := .bits table.length (permute table.length table v) } := by
  change execPerm table win v s = _
  rw [execPerm, (checkTable_none_iff _ table win).mpr hwf]
  rfl

/-- `PERM` with a table that fails the check is refused with what the check reports (log entry 7). -/
theorem exec_perm_refused {table : List Nat} {win : Nat} {error : ConfigurationError}
    (h : checkTable (.given table) table win = some error) (v : BitVec win) (s : State) :
    exec (.perm table win v) s = .refused (.configurationError error) := by
  change execPerm table win v s = _
  rw [execPerm, h]

/-- Settles O18: position i is that of `pos_permute`. -/
theorem permSelectsPositions : Obligations.PermSelectsPositions := by
  intro s table win v hentries
  exact ⟨permute table.length table v, exec_perm_answers (tableWellFormed_iff.mpr hentries) v s,
    fun i => pos_permute rfl v⟩

/-- Settles O19: both the check of the table given to `PERM` and the validation of a record report through
`firstBadEntry`. -/
theorem permRejectsBadTables : Obligations.PermRejectsBadTables := by
  refine ⟨fun s table win v ⟨t, ht, hbad⟩ => ?_, fun T id i herror => ?_, fun T => ?_, tableProperties.1⟩
  · have hill : ¬tableWellFormed table win = true := fun hwf => by
      have := tableWellFormed_iff.mp hwf t ht
      omega
    obtain ⟨⟨id, i⟩, herror⟩ := Option.ne_none_iff_exists'.mp
      (mt (checkTable_none_iff (.given table) table win).mp hill)
    obtain ⟨rfl, hi⟩ := checkTable_some herror
    exact ⟨i, exec_perm_refused herror v s, firstBadEntry_one_some hi⟩
  · obtain ⟨⟨id, table, win⟩, hmem, rfl, hi⟩ := tablesCheck_some herror
    exact ⟨table, win, hmem, firstBadEntry_one_some hi⟩
  · simp only [tablesCheck_none_iff, permutationTables, List.forall_mem_cons, List.forall_mem_append,
      tableWellFormed_iff, and_assoc, List.not_mem_nil, false_implies, implies_true, and_true]

/-- Settles O20: each unit is `permute` with a table of its own length. -/
theorem permutationUnitsFollowTables : Obligations.PermutationUnitsFollowTables := by
  intro s
  exact ⟨fun v => ⟨ip v, rfl, fun _ => pos_permute ip_length v⟩,
    fun v => ⟨fp v, rfl, fun _ => pos_permute fp_length v⟩,
    fun v => ⟨pc1 v, rfl, fun _ => pos_permute pc1_length v⟩,
    fun v => ⟨pc2 v, rfl, fun _ => pos_permute pc2_length v⟩,
    fun v => ⟨expand v, rfl, fun _ => pos_permute e_length v⟩,
    fun v => ⟨pbox v, rfl, fun _ => pos_permute p_length v⟩⟩

/-! ## The laws of `PERM` (R102) -/

theorem permute_xor {n win : Nat} {table : List Nat} (hn : table.length = n) (a b : BitVec win) :
    permute n table (a ^^^ b) = permute n table a ^^^ permute n table b :=
  eq_of_pos fun j h1 h2 => by simp only [pos_permute hn _ h1 h2, pos_xor]

theorem permute_zero {n : Nat} {table : List Nat} (hn : table.length = n) (win : Nat) :
    permute n table (0 : BitVec win) = 0 :=
  eq_of_pos fun j h1 h2 => by simp [pos_permute hn _ h1 h2]

/-- This law needs a well-formed table: an entry 0 reads 0 of a vector and of its complement. -/
theorem permute_not {n win : Nat} {table : List Nat} (hn : table.length = n) (hwf : tableWellFormed table win = true)
    (a : BitVec win) : permute n table (~~~a) = ~~~permute n table a :=
  eq_of_pos fun j h1 h2 => by
    obtain ⟨ht1, htwin⟩ := tableWellFormed_getD hwf (j := j - 1) (by omega)
    rw [pos_permute hn _ h1 h2, pos_not _ ht1 htwin, pos_not _ h1 h2, pos_permute hn _ h1 h2]

/-- The table of R102's last law undoes the permutation it inverts. -/
theorem permute_inverse_permute {table inverse : List Nat} {win : Nat} (hperm : table.Perm (List.range' 1 win))
    (hlength : inverse.length = win)
    (hinverse : ∀ i, 1 ≤ i → i ≤ win → inverse.getD (table.getD (i - 1) 0 - 1) 0 = i) (a : BitVec win) :
    permute win inverse (permute win table a) = a := by
  have hwf : tableWellFormed inverse win = true := tableWellFormed_iff.mpr fun t ht => by
    obtain ⟨j, h1, hj, rfl⟩ := exists_entry_of_mem ht
    exact (inverse_entry_of_perm hperm hinverse h1 (by omega)).1
  exact permute_permute_of_inverse (by simpa using hperm.length_eq) hlength hwf
    (fun j h1 hj => (inverse_entry_of_perm hperm hinverse h1 hj).2) a

/-- Settles O21, law by law. -/
theorem permLaws : Obligations.PermLaws := by
  intro table win hwf
  exact ⟨permute_xor rfl, permute_zero rfl win, permute_not rfl hwf,
    fun _ a hperm hlength hinverse => permute_inverse_permute hperm hlength hinverse a⟩

/-! ## What PC2, EXPAND and PBOX take -/

/-- A slice position by position. -/
theorem pos_extractLsb' {w : Nat} (v : BitVec w) {start len p : Nat} (hfits : start + len ≤ w) (h1 : 1 ≤ p)
    (h2 : p ≤ len) : pos (v.extractLsb' start len) p = pos v (w - (start + len) + p) := by
  simp only [pos, BitVec.getLsbD_extractLsb']
  rw [decide_eq_true (by omega), Bool.true_and]
  congr 1; omega

/-- The first 24 positions of a subkey are taken from C (R106, R91 (d)). -/
theorem pos_pc2_left (c d : KeyHalf) {j : Nat} (h1 : 1 ≤ j) (h24 : j ≤ 24) :
    pos (pc2 (joinKeyHalves c d)) j = pos c (pc2Table.getD (j - 1) 0) := by
  obtain ⟨hlength, -, -, hC, -⟩ := pc2Table_positions
  have hj : j - 1 < pc2Table.length := by omega
  have hmem : pc2Table.getD (j - 1) 0 ∈ pc2Table.take 24 := by
    rw [List.getD_eq_getElem _ _ hj]
    exact List.mem_take_iff_getElem.mpr ⟨j - 1, by omega, rfl⟩
  obtain ⟨ht1, -⟩ := tableWellFormed_getD (win := 56) (by decide) hj
  exact (pos_permute pc2_length _ h1 (by omega)).trans (pos_joinKeyHalves_left c d ht1 (hC _ hmem))

/-- The last 24 positions of a subkey are taken from D (R106, R91 (d)). -/
theorem pos_pc2_right (c d : KeyHalf) {j : Nat} (h25 : 25 ≤ j) (h48 : j ≤ 48) :
    pos (pc2 (joinKeyHalves c d)) j = pos d (pc2Table.getD (j - 1) 0 - 28) := by
  obtain ⟨hlength, -, -, -, hD⟩ := pc2Table_positions
  have hj : j - 1 < pc2Table.length := by omega
  have hmem : pc2Table.getD (j - 1) 0 ∈ pc2Table.drop 24 := by
    rw [List.getD_eq_getElem _ _ hj]
    exact List.mem_drop_iff_getElem.mpr ⟨j - 25, by omega, by congr 1; omega⟩
  obtain ⟨-, ht56⟩ := tableWellFormed_getD (win := 56) (by decide) hj
  exact (pos_permute pc2_length _ (by omega) h48).trans (pos_joinKeyHalves_right c d (hD _ hmem) ht56)

/-- Settles O25: a position of either half of a subkey names the half of the pair it is taken from. -/
theorem compressionKeepsHalvesApart : Obligations.CompressionKeepsHalvesApart := by
  refine ⟨fun c d d' => eq_of_pos fun j h1 h24 => ?_, fun c c' d => eq_of_pos fun j h1 h24 => ?_⟩
  · rw [pos_extractLsb' _ (by omega) h1 h24, pos_extractLsb' _ (by omega) h1 h24,
      pos_pc2_left c d (by omega) (by omega), pos_pc2_left c d' (by omega) (by omega)]
  · rw [pos_extractLsb' _ (by omega) h1 h24, pos_extractLsb' _ (by omega) h1 h24,
      pos_pc2_right c d (by omega) (by omega), pos_pc2_right c' d (by omega) (by omega)]

/-- Chunk k is positions 6k+1 .. 6k+6 (R70, R124). -/
theorem pos_chunk (x : Subkey) {k j : Nat} (hk : k < 8) (hj : j < 6) :
    pos (chunk x k) (j + 1) = pos x (6 * k + j + 1) := by
  rw [chunk, pos_extractLsb' x (by omega) (by omega) (by omega)]
  congr 1; omega

/-- Settles O26: a position of a chunk is taken from where the table's entry says, and R91 (e) gives the entries. -/
theorem expansionChunks : Obligations.ExpansionChunks := by
  intro r k hk j hj
  obtain ⟨-, -, -, -, ⟨-, hentries⟩, -⟩ := tableProperties
  calc pos (chunk (expand r) k) (j + 1)
      = pos (expand r) (6 * k + j + 1) := pos_chunk _ hk hj
    _ = pos r (eTable.getD (6 * k + j) 0) := pos_permute e_length r (by omega) (by omega)
    _ = _ := by rw [hentries k hk j hj]

/-- `PBOX` takes every position of its input (R91 (f)), so it is one-to-one, between sets of one size. -/
theorem pbox_bijective : Function.Bijective pbox := by
  obtain ⟨-, -, -, -, -, hperm, -⟩ := tableProperties
  have hinjective : Function.Injective pbox := permute_injective p_length fun p h1 h32 =>
    hperm.mem_iff.mpr (List.mem_range'_1.mpr ⟨h1, by omega⟩)
  exact Finite.injective_iff_bijective.mp hinjective

/-- Settles O27: each value has exactly one preimage under a bijection. -/
theorem roundOutputPermutationBijective : Obligations.RoundOutputPermutationBijective :=
  pbox_bijective.existsUnique

end Sys2Proof.Machine

/-! # The key scheduler (42_key_scheduler.md)

A rotation position by position, then sixteen of them one after the other: their total gives each half before each
round, and with it the key bit that each bit of each subkey copies (R118). The laws of `KS` are read off that. -/

namespace Sys2Proof.Machine

/-! ## `ROTL28`: a rotation within 28 bits (R114) -/

/-- The bits after the first `n` positions move by `n`. -/
theorem pos_rotl28_moved (v : KeyHalf) (n : Shift) {p : Nat} (hn : shiftAmount n < p) (h28 : p ≤ 28) :
    pos (rotl28 v n) (p - shiftAmount n) = pos v p := by
  rw [pos_rotl28 v n (by omega) (by omega)]
  congr 1; omega

/-- The bits at the first `n` positions re-enter at the last `n`, in the same order. -/
theorem pos_rotl28_reentered (v : KeyHalf) (n : Shift) {p : Nat} (h1 : 1 ≤ p) (hn : p ≤ shiftAmount n) :
    pos (rotl28 v n) (28 - shiftAmount n + p) = pos v p := by
  have hamount : shiftAmount n ≤ 2 := by cases n <;> decide
  rw [pos_rotl28 v n (by omega) (by omega)]
  congr 1; omega

/-- The first formula of R114: the bits after the first `n`, then the first `n`. -/
theorem rotl28_eq_append (v : KeyHalf) (n : Shift) {m : Nat} (hm : m + shiftAmount n = 28) :
    rotl28 v n = (v.extractLsb' 0 m ++ v.extractLsb' m (shiftAmount n)).cast hm := by
  have hshift : 28 - shiftAmount n = m := by omega
  apply BitVec.eq_of_getLsbD_eq
  intro i hi
  rw [rotl28, BitVec.getLsbD_or, BitVec.getLsbD_shiftLeft, BitVec.getLsbD_ushiftRight, BitVec.getLsbD_cast,
    BitVec.getLsbD_append, BitVec.getLsbD_extractLsb', BitVec.getLsbD_extractLsb', hshift]
  by_cases hlow : i < shiftAmount n
  · simp [hlow]
  · have hout : 28 ≤ m + i := by omega
    have hm' : i - shiftAmount n < m := by omega
    simp [hlow, hi, hm', BitVec.getLsbD_of_ge v _ hout]

theorem rotl28_one_rotl28_one (v : KeyHalf) : rotl28 (rotl28 v .one) .one = rotl28 v .two :=
  eq_of_pos fun j h1 h28 => by
    rw [pos_rotl28 _ _ h1 h28, pos_rotl28 _ _ (by omega) (by omega), pos_rotl28 _ _ h1 h28]
    simp only [shiftAmount]
    congr 1; omega

/-- Settles O28: the rotation by positions, by slices and twice, and the fixed examples of R114. -/
theorem rotationWithinTwentyEightBits : Obligations.RotationWithinTwentyEightBits := by
  refine ⟨fun s v n => ⟨rotl28 v n, rfl, fun _ => pos_rotl28_moved v n, fun _ => pos_rotl28_reentered v n, rfl⟩,
    fun v => ⟨rotl28_eq_append v .one rfl, rotl28_eq_append v .two rfl, rotl28_one_rotl28_one v⟩, ?_⟩
  exact ⟨by decide, by decide, by decide, by decide, fun n => by cases n <;> decide, fun n => by cases n <;> decide,
    by decide⟩

/-! ## The subkeys and the accumulated rotations (R116, R118) -/

theorem ks_length (key : Block) : (ks key).length = 16 := by
  rw [ks_eq_map_subkey, List.length_map, List.length_range']

/-- Entry i of `KS` is the subkey of round i. -/
theorem ks_getD (key : Block) {i : Nat} (hi : i < 16) : (ks key).getD i 0 = subkey key i := by
  rw [List.getD_eq_getElem _ _ (by rw [ks_length]; exact hi)]
  simp [ks_eq_map_subkey]

/-- Settles O29: `CDstate` is defined by R116's recursion, and `KS` lists the subkeys formed from it. -/
theorem keyScheduleAccumulates : Obligations.KeyScheduleAccumulates :=
  ⟨fun _ key => ⟨ks key, rfl, ks_length key, fun _ hi => ks_getD key hi⟩, fun _ => ⟨rfl, fun _ _ => rfl⟩⟩

/-- The total rotation of each half before round i: `T[i - 1]` of R118. -/
def totalShift (i : Nat) : Nat := ((List.range i).map fun k => shiftAmount (shiftAt k)).sum

theorem totalShift_succ (i : Nat) : totalShift (i + 1) = totalShift i + shiftAmount (shiftAt i) := by
  simp [totalShift, List.range_succ]

/-- Rotations that accumulate from round to round are one by their total. -/
theorem pos_accumulated {half : Nat → KeyHalf} (hstep : ∀ i, half (i + 1) = rotl28 (half i) (shiftAt i)) (i : Nat)
    {j : Nat} (h1 : 1 ≤ j) (h28 : j ≤ 28) : pos (half i) j = pos (half 0) ((j - 1 + totalShift i) % 28 + 1) := by
  induction i generalizing j with
  | zero =>
    have hzero : totalShift 0 = 0 := rfl
    congr 1; omega
  | succ i ih =>
    rw [hstep, pos_rotl28 _ _ h1 h28, ih (by omega) (by omega), totalShift_succ]
    congr 1; omega

/-- After sixteen rounds a half has gone round once: `T[15] = 28` is its width (R118). -/
theorem accumulated_sixteen {half : Nat → KeyHalf} (hstep : ∀ i, half (i + 1) = rotl28 (half i) (shiftAt i)) :
    half 16 = half 0 :=
  eq_of_pos fun j h1 h28 => by
    have htotal : totalShift 16 = 28 := by decide
    rw [pos_accumulated hstep 16 h1 h28]
    congr 1; omega

theorem cdState_sixteen (key : Block) : cdState key 16 = cdState key 0 :=
  Prod.ext (accumulated_sixteen (half := fun i => (cdState key i).1) fun _ => rfl)
    (accumulated_sixteen (half := fun i => (cdState key i).2) fun _ => rfl)

/-! ## The key bit that a subkey bit copies (R118) -/

theorem pc2Table_entry {j : Nat} (h1 : 1 ≤ j) (h48 : j ≤ 48) :
    1 ≤ pc2Table.getD (j - 1) 0 ∧ pc2Table.getD (j - 1) 0 ≤ 56 :=
  tableWellFormed_getD (by decide) (by rw [pc2Table_positions.1]; omega)

/-- A position of `PC2` is taken from the half that its entry names (R106). -/
theorem pos_pc2 (c d : KeyHalf) {j : Nat} (h1 : 1 ≤ j) (h48 : j ≤ 48) :
    pos (pc2 (joinKeyHalves c d)) j =
      if pc2Table.getD (j - 1) 0 ≤ 28 then pos c (pc2Table.getD (j - 1) 0)
      else pos d (pc2Table.getD (j - 1) 0 - 28) := by
  obtain ⟨ht1, ht56⟩ := pc2Table_entry h1 h48
  have hsource : pos (pc2 (joinKeyHalves c d)) j = pos (joinKeyHalves c d) (pc2Table.getD (j - 1) 0) :=
    pos_permute pc2_length _ h1 h48
  rw [hsource]
  split
  · next hleft => exact pos_joinKeyHalves_left c d ht1 hleft
  · next hright => exact pos_joinKeyHalves_right c d (by omega) ht56

/-- The formula of R118: `PC2` after the total rotation of the half it takes the bit from. -/
theorem pos_subkey (key : Block) (i : Nat) {j : Nat} (h1 : 1 ≤ j) (h48 : j ≤ 48) :
    pos (subkey key i) j =
      if pc2Table.getD (j - 1) 0 ≤ 28 then
        pos (leftKeyHalf (pc1 key)) ((pc2Table.getD (j - 1) 0 - 1 + totalShift (i + 1)) % 28 + 1)
      else pos (rightKeyHalf (pc1 key)) ((pc2Table.getD (j - 1) 0 - 29 + totalShift (i + 1)) % 28 + 1) := by
  obtain ⟨ht1, ht56⟩ := pc2Table_entry h1 h48
  rw [subkey, pos_pc2 _ _ h1 h48]
  split
  · next hleft => exact pos_accumulated (half := fun i => (cdState key i).1) (fun _ => rfl) (i + 1) ht1 hleft
  · next hright =>
    exact pos_accumulated (half := fun i => (cdState key i).2) (fun _ => rfl) (i + 1) (by omega) (by omega)

/-- Settles O30: the halves go round once in sixteen rounds, and the list holds the totals after each of them. -/
theorem subkeyBitsAreKeyBits : Obligations.SubkeyBitsAreKeyBits := by
  intro key
  refine ⟨cdState_sixteen key, by rw [subkey, cdState_sixteen], fun i hi j h1 h48 => ?_⟩
  have htotal : ∀ i < 16,
      [1, 2, 4, 6, 8, 10, 12, 14, 15, 17, 19, 21, 23, 25, 27, 28].getD i 0 = totalShift (i + 1) := by decide
  intro total source
  rw [pos_subkey key i h1 h48, ← htotal i hi]
  rfl

/-- Each bit of the parity-dropped key is a copy of one key bit, the same for every key (R105). -/
theorem exists_pos_pc1 {q : Nat} (h1 : 1 ≤ q) (h56 : q ≤ 56) :
    ∃ p, 1 ≤ p ∧ p ≤ 64 ∧ ∀ key, pos (pc1 key) q = pos key p := by
  obtain ⟨hp1, hp64⟩ := tableWellFormed_getD (table := pc1Table) (win := 64) (j := q - 1) (by decide)
    (by rw [pc1Table_positions.1]; omega)
  exact ⟨_, hp1, hp64, fun key => pos_permute pc1_length key h1 h56⟩

/-- Each bit of each subkey is a copy of one key bit, the same for every key (R118). -/
theorem exists_pos_subkey (i : Nat) {j : Nat} (h1 : 1 ≤ j) (h48 : j ≤ 48) :
    ∃ p, 1 ≤ p ∧ p ≤ 64 ∧ ∀ key, pos (subkey key i) j = pos key p := by
  by_cases hleft : pc2Table.getD (j - 1) 0 ≤ 28
  · obtain ⟨p, hp1, hp64, hp⟩ := exists_pos_pc1
      (q := (pc2Table.getD (j - 1) 0 - 1 + totalShift (i + 1)) % 28 + 1) (by omega) (by omega)
    refine ⟨p, hp1, hp64, fun key => ?_⟩
    rw [pos_subkey key i h1 h48, if_pos hleft, pos_leftKeyHalf _ (by omega) (by omega), hp]
  · obtain ⟨p, hp1, hp64, hp⟩ := exists_pos_pc1
      (q := 28 + ((pc2Table.getD (j - 1) 0 - 29 + totalShift (i + 1)) % 28 + 1)) (by omega) (by omega)
    refine ⟨p, hp1, hp64, fun key => ?_⟩
    rw [pos_subkey key i h1 h48, if_neg hleft, pos_rightKeyHalf _ (by omega) (by omega), hp]

/-! ## The dropped key bits (R113) -/

/-- `PC1` reads no bit at the low end of a key byte. -/
theorem pc1_and_mask (v : Block) : pc1 (v &&& 0xFEFEFEFEFEFEFEFE) = pc1 v := by
  have hmask : ∀ j < 56, pos (0xFEFEFEFEFEFEFEFE : Block) (pc1Table.getD j 0) = true := by decide
  refine eq_of_pos fun j h1 h56 => ?_
  calc pos (pc1 (v &&& 0xFEFEFEFEFEFEFEFE)) j
      = pos (v &&& 0xFEFEFEFEFEFEFEFE) (pc1Table.getD (j - 1) 0) := pos_permute pc1_length _ h1 h56
    _ = (pos v (pc1Table.getD (j - 1) 0) && pos (0xFEFEFEFEFEFEFEFE : Block) (pc1Table.getD (j - 1) 0)) :=
        BitVec.getLsbD_and
    _ = pos v (pc1Table.getD (j - 1) 0) := by rw [hmask (j - 1) (by omega), Bool.and_true]
    _ = pos (pc1 v) j := (pos_permute pc1_length v h1 h56).symm

theorem pc1_xor_dropped {m : Block} (hm : m &&& 0xFEFEFEFEFEFEFEFE = 0) (k : Block) : pc1 (k ^^^ m) = pc1 k := by
  have hzero : pc1 m = 0 := by
    rw [← pc1_and_mask, hm]
    exact permute_zero pc1_length 64
  calc pc1 (k ^^^ m) = pc1 k ^^^ pc1 m := permute_xor pc1_length k m
    _ = pc1 k := by rw [hzero]; exact BitVec.xor_zero

/-- The subkeys depend on the parity-dropped key alone (R111). -/
theorem ks_congr {k k' : Block} (h : pc1 k = pc1 k') : ks k = ks k' := by
  rw [ks, ks, initialKeyPair, initialKeyPair, h]

/-- Settles O32: a dropped bit does not reach `PC1`, so neither `KS` nor `ENCRYPT`. -/
theorem parityBitsIgnored : Obligations.ParityBitsIgnored := by
  intro m hm
  have hks (k : Block) : ks (k ^^^ m) = ks k := ks_congr (pc1_xor_dropped hm k)
  exact ⟨fun k => ⟨pc1_xor_dropped hm k, hks k⟩, fun p k => by rw [encrypt, encrypt, hks]⟩

/-! ## The laws of `KS` (R120), from the key bit that each subkey bit copies -/

theorem subkey_xor (a b : Block) (i : Nat) : subkey (a ^^^ b) i = subkey a i ^^^ subkey b i :=
  eq_of_pos fun j h1 h48 => by
    obtain ⟨p, -, -, hp⟩ := exists_pos_subkey i h1 h48
    simp only [pos_xor, hp]

theorem subkey_not (a : Block) (i : Nat) : subkey (~~~a) i = ~~~subkey a i :=
  eq_of_pos fun j h1 h48 => by
    obtain ⟨p, hp1, hp64, hp⟩ := exists_pos_subkey i h1 h48
    rw [pos_not _ h1 h48, hp, hp, pos_not _ hp1 hp64]

theorem subkey_zero (i : Nat) : subkey 0 i = 0 :=
  eq_of_pos fun j h1 h48 => by
    obtain ⟨p, -, -, hp⟩ := exists_pos_subkey i h1 h48
    exact (hp 0).trans ((pos_zero 64 p).trans (pos_zero 48 j).symm)

theorem subkey_ones (i : Nat) : subkey 0xFFFFFFFFFFFFFFFF i = 0xFFFFFFFFFFFF := by
  have h := subkey_not 0 i
  rwa [subkey_zero] at h

/-- Settles O31: the laws subkey by subkey; the second key with all subkeys 1 is the first but for dropped bits. -/
theorem keyScheduleLaws : Obligations.KeyScheduleLaws := by
  intro i hi
  have hdropped : ks 0xFEFEFEFEFEFEFEFE = ks 0xFFFFFFFFFFFFFFFF := ks_congr (pc1_and_mask 0xFFFFFFFFFFFFFFFF)
  have hfixed : ∀ i < 16, (ks 0x1F1F1F1F0E0E0E0E).getD i 0 = 0x000000FFFFFF := by decide +kernel
  refine ⟨fun a b => ?_, fun a => ?_, ?_, ?_, ?_, hfixed i hi⟩
  · rw [ks_getD _ hi, ks_getD _ hi, ks_getD _ hi, subkey_xor]
  · rw [ks_getD _ hi, ks_getD _ hi, subkey_not]
  · rw [ks_getD _ hi, subkey_zero]
  · rw [ks_getD _ hi, subkey_ones]
  · rw [hdropped, ks_getD _ hi, subkey_ones]

end Sys2Proof.Machine

/-! # The round function (43_round_function.md)

The eight S-box units are one lookup, by row and column; `SUB` puts their nibbles side by side, and `F` reads its
operands through the key-mixed value alone. -/

namespace Sys2Proof.Machine

/-! ## The S-box units (R125) -/

/-- The row is written by the first and the last bit of the chunk. -/
theorem chunkRow_eq (x : Chunk) : chunkRow x = 2 * (x.toNat / 32) + x.toNat % 2 := by
  have hfirst : x.toNat / 2 ^ 5 < 2 := by omega
  rw [chunkRow, BitVec.getLsbD, BitVec.getLsbD, Nat.toNat_testBit, Nat.toNat_testBit, Nat.mod_eq_of_lt hfirst, pow_zero,
    Nat.div_one]
  rfl

/-- The column is written by the four bits between them. -/
theorem chunkColumn_eq (x : Chunk) : chunkColumn x = x.toNat / 2 % 16 := by
  rw [chunkColumn, BitVec.extractLsb'_toNat, Nat.shiftRight_eq_div_pow]

/-- Operation k of the list is the unit `SBOX_k`. -/
theorem exec_sboxOps (s : State) (x : Chunk) {k : Nat} (hk : k < 8) :
    exec ((sboxOps x).getD k .nop) s = s.answerBits (sbox k x) := by
  match k, hk with
  | 0, _ | 1, _ | 2, _ | 3, _ | 4, _ | 5, _ | 6, _ | 7, _ => rfl

/-- Settles O33: each unit answers one lookup, at the row and the column of its chunk. -/
theorem sboxUnitsReadTheirTables : Obligations.SboxUnitsReadTheirTables := by
  intro s x k hk
  rw [exec_sboxOps s x hk, sbox, chunkRow_eq, chunkColumn_eq]
  rfl

/-! ## `SUB` nibble by nibble (R124, R126) -/

/-- A slice of a join that lies to the left of its last nibble is one of the left part. -/
theorem extractLsb'_append_nibble {w : Nat} (a : BitVec w) (b : Nibble) (start : Nat) :
    (a ++ b).extractLsb' (start + 4) 4 = a.extractLsb' start 4 := by
  rw [BitVec.extractLsb'_append_eq_of_le (by omega), Nat.add_sub_cancel]

/-- The last nibble of a join. -/
theorem extractLsb'_append_last_nibble {w : Nat} (a : BitVec w) (b : Nibble) : (a ++ b).extractLsb' 0 4 = b := by
  rw [BitVec.extractLsb'_append_eq_of_add_le (by omega), BitVec.extractLsb'_eq_self]

/-- Nibble k of `SUB` is the answer of `SBOX_k` to chunk k: the nibbles that stand after it are skipped one by one. -/
theorem nibble_sub (x : Subkey) {k : Nat} (hk : k < 8) : nibble (sub x) k = sbox k (chunk x k) := by
  match k, hk with
  | 0, _ | 1, _ | 2, _ | 3, _ | 4, _ | 5, _ | 6, _ | 7, _ =>
    simp only [nibble, sub, Nat.reduceMul, Nat.reduceSub, extractLsb'_append_nibble, extractLsb'_append_last_nibble,
      BitVec.extractLsb'_eq_self]

/-- Settles O34: `SUB` by nibbles, and a chunk by the positions it takes (`pos_chunk`). -/
theorem substitutionIsNibblewise : Obligations.SubstitutionIsNibblewise := by
  refine ⟨fun s x => ⟨sub x, rfl, fun k => nibble_sub x⟩, fun x k hk j h1 h6 => ?_⟩
  obtain ⟨i, rfl⟩ := Nat.exists_eq_add_of_le' h1
  exact pos_chunk x hk h6

/-! ## `F` (R122, R129) -/

/-- Settles O35: `F` is the four steps by definition, and exclusive or acts on each position by itself. -/
theorem roundFunctionSteps : Obligations.RoundFunctionSteps :=
  ⟨fun _ _ _ => rfl, fun r k => pos_xor (expand r) k, by decide +kernel⟩

/-- R129 (a): `F` depends on the key-mixed value alone. -/
theorem feistel_congr {r r' : Half} {k k' : Subkey} (h : expand r ^^^ k = expand r' ^^^ k') :
    feistel r k = feistel r' k' := by
  rw [feistel, feistel, h]

theorem expand_not (r : Half) : expand (~~~r) = ~~~expand r := permute_not e_length (by decide) r

/-- R129 (b): the two complements cancel in the key mixing. -/
theorem feistel_not_not (r : Half) (k : Subkey) : feistel (~~~r) (~~~k) = feistel r k :=
  feistel_congr <| by rw [expand_not, ← BitVec.not_xor_left, ← BitVec.not_xor_right, BitVec.not_not]

/-- Settles O36: R129 (a) and (b); by (b) two of the five values follow from two others. -/
theorem roundFunctionComplement : Obligations.RoundFunctionComplement := by
  have hzero : feistel 0 0 = 0xD8D8DBBC := by decide +kernel
  have hones : feistel 0xFFFFFFFF 0 = 0x38DBF9CB := by decide +kernel
  exact ⟨fun _ _ _ _ => feistel_congr, fun r k => ⟨expand_not r, feistel_not_not r k⟩, hzero,
    (feistel_not_not 0 0).trans hzero, hones, (feistel_not_not 0xFFFFFFFF 0).trans hones, by decide +kernel⟩

end Sys2Proof.Machine

/-! # The Feistel pipeline (44_feistel_pipeline.md)

A round on the swapped pair undoes a round, so the rounds in reverse order undo the rounds; the final swap hands over the
swapped pair. Complementing plaintext and key complements every pair on the way. -/

namespace Sys2Proof.Machine

/-! ## One round (R140) -/

theorem roundInverse_feistelRound (l r : Half) (k : Subkey) :
    roundInverse (feistelRound l r k).1 (feistelRound l r k).2 k = (l, r) := by
  simp only [roundInverse, feistelRound, BitVec.xor_assoc, BitVec.xor_self, BitVec.xor_zero]

theorem feistelRound_roundInverse (l r : Half) (k : Subkey) :
    feistelRound (roundInverse l r k).1 (roundInverse l r k).2 k = (l, r) := by
  simp only [roundInverse, feistelRound, BitVec.xor_assoc, BitVec.xor_self, BitVec.xor_zero]

/-- Settles O37: the two exclusive ors with the same value of `F` cancel. -/
theorem roundIsInvertible : Obligations.RoundIsInvertible :=
  ⟨fun _ _ _ _ => rfl, fun l r k => ⟨roundInverse_feistelRound l r k, feistelRound_roundInverse l r k⟩⟩

/-! ## `ENCRYPT` (R138) -/

/-- Settles O38: the pairs are those of R141, whose subkeys `KS` lists. -/
theorem encryptUnitRunsSixteenRounds : Obligations.EncryptUnitRunsSixteenRounds := by
  intro s p key
  refine ⟨pairAt p key, rfl, fun i hi => ?_, ?_⟩
  · rw [ks_getD key hi]
    rfl
  · exact congrArg s.answerBits (encrypt_eq_finalBlock p key)

/-- Settles O39: each vector is one evaluation. -/
theorem knownAnswerVectors : Obligations.KnownAnswerVectors :=
  ⟨by decide +kernel, by decide +kernel, by decide +kernel, by decide +kernel⟩

/-! ## The rounds in reverse order (R148 (a), R149) -/

theorem rounds_append (before after : List Subkey) (lr : Half × Half) :
    rounds (before ++ after) lr = rounds after (rounds before lr) := by
  induction before generalizing lr with
  | nil => rfl
  | cons k rest ih => exact ih (feistelRound lr.1 lr.2 k)

/-- The subkeys in reverse order take the swapped last pair back to the swapped first pair: on swapped pairs `ROUND` is
`ROUNDINV` (R149). -/
theorem rounds_reverse_swap (subkeys : List Subkey) (lr : Half × Half) :
    rounds subkeys.reverse (rounds subkeys lr).swap = lr.swap := by
  induction subkeys generalizing lr with
  | nil => rfl
  | cons k rest ih =>
    calc rounds (k :: rest).reverse (rounds (k :: rest) lr).swap
        = rounds [k] (rounds rest.reverse (rounds rest (feistelRound lr.1 lr.2 k)).swap) := by
          rw [List.reverse_cons, rounds_append]
          rfl
      _ = rounds [k] (feistelRound lr.1 lr.2 k).swap := by rw [ih]
      _ = (roundInverse (feistelRound lr.1 lr.2 k).1 (feistelRound lr.1 lr.2 k).2 k).swap := rfl
      _ = lr.swap := by rw [roundInverse_feistelRound]

/-- `IP` undoes `FP` and leaves the swapped pair. -/
theorem initialPair_finalBlock (lr : Half × Half) : initialPair (finalBlock lr) = lr.swap := by
  rw [initialPair, finalBlock, (finalAndInitialPermutationInverse _).2, leftHalf_joinHalves, rightHalf_joinHalves]
  rfl

/-- The swap of `(R_0, L_0)` gives `IP(p)`, which `FP` undoes. -/
theorem finalBlock_swap_initialPair (p : Block) : finalBlock (initialPair p).swap = p :=
  calc finalBlock (initialPair p).swap
      = fp (joinHalves (leftHalf (ip p)) (rightHalf (ip p))) := rfl
    _ = p := by rw [joinHalves_halves, (finalAndInitialPermutationInverse p).1]

/-- The algorithm of R138 with any list of subkeys is inverted by the same with the list reversed. -/
theorem finalBlock_rounds_reverse (subkeys : List Subkey) (p : Block) :
    finalBlock (rounds subkeys.reverse (initialPair (finalBlock (rounds subkeys (initialPair p))))) = p := by
  rw [initialPair_finalBlock, rounds_reverse_swap, finalBlock_swap_initialPair]

theorem decryptReference_encrypt (p key : Block) : decryptReference (encrypt p key) key = p :=
  finalBlock_rounds_reverse (ks key) p

theorem encrypt_decryptReference (c key : Block) : encrypt (decryptReference c key) key = c := by
  have h := finalBlock_rounds_reverse (ks key).reverse c
  rwa [List.reverse_reverse] at h

/-- Settles O42: the algorithm with the subkeys reversed undoes the algorithm. -/
theorem reversedSubkeysDecrypt : Obligations.ReversedSubkeysDecrypt := decryptReference_encrypt

/-- Settles O40: the one plaintext of a value is its decryption. -/
theorem encryptIsBijective : Obligations.EncryptIsBijective := fun key c =>
  ⟨decryptReference c key, encrypt_decryptReference c key, fun p' h => by rw [← h, decryptReference_encrypt]⟩

/-! ## The complement law (R148 (c)) -/

theorem ip_not (v : Block) : ip (~~~v) = ~~~ip v := permute_not ip_length (by decide) v

theorem fp_not (v : Block) : fp (~~~v) = ~~~fp v := permute_not fp_length (by decide) v

theorem joinHalves_not (a b : Half) : joinHalves (~~~a) (~~~b) = ~~~joinHalves a b := BitVec.not_append.symm

theorem initialPair_not (p : Block) : initialPair (~~~p) = (initialPair p).map (~~~·) (~~~·) := by
  rw [initialPair, ip_not, ← joinHalves_halves (ip p), ← joinHalves_not, leftHalf_joinHalves, rightHalf_joinHalves]
  rfl

theorem finalBlock_not (lr : Half × Half) : finalBlock (lr.map (~~~·) (~~~·)) = ~~~finalBlock lr :=
  calc finalBlock (lr.map (~~~·) (~~~·))
      = fp (joinHalves (~~~lr.2) (~~~lr.1)) := rfl
    _ = ~~~finalBlock lr := by rw [joinHalves_not, fp_not, finalBlock]

/-- `F` does not see the complements (R129 (b)), so they pass through a round. -/
theorem feistelRound_not (l r : Half) (k : Subkey) :
    feistelRound (~~~l) (~~~r) (~~~k) = (feistelRound l r k).map (~~~·) (~~~·) := by
  rw [feistelRound, feistel_not_not, ← BitVec.not_xor_left]
  rfl

/-- Every pair of the complemented transform is the complement of the pair (R120, R129 (b)). -/
theorem pairAt_not (p key : Block) (i : Nat) :
    pairAt (~~~p) (~~~key) i = (pairAt p key i).map (~~~·) (~~~·) := by
  induction i with
  | zero => exact initialPair_not p
  | succ i ih =>
    rw [pairAt, ih, subkey_not]
    exact feistelRound_not _ _ _

/-- Settles O41: the pairs after sixteen rounds are complements, and the swap and `FP` keep that. -/
theorem encryptComplement : Obligations.EncryptComplement := by
  intro p key
  rw [encrypt_eq_finalBlock, pairAt_not, finalBlock_not, ← encrypt_eq_finalBlock]

end Sys2Proof.Machine

/-! # The sequencer and the commands (45_sequencer_and_commands.md)

One edge first: what each command and each micro-operation does to the registers, and that a step always answers. Then
runs of edges: a transaction, what it leaves, and what it does not depend on. -/

namespace Sys2Proof.Machine

/-! ## What a step runs (R150) -/

theorem step_of_fetch {s t : State} {i : Instr} (h : s.fetch = .ok (i, t)) : step s = exec i t := by
  rw [step, h]

/-- With no line left the host holds the pins (log entry 1). -/
theorem State.fetch_held {s : State} {i : Instr} (hscript : s.script = []) (h : s.selected = .ok i) :
    s.fetch = .ok (i, s) := by
  simp only [State.fetch, hscript, h]

/-- An edge line puts its levels on the pins (log entry 1). -/
theorem State.fetch_edge {s : State} {p : Pins} {rest : List Line} {i : Instr} (hscript : s.script = .edge p :: rest)
    (h : State.selected { s with pins := p, script := rest } = .ok i) :
    s.fetch = .ok (i, { s with pins := p, script := rest }) := by
  simp only [State.fetch, hscript, h]

/-- Settles O6, by the host's next line. -/
theorem stepRunsDecodedOperation : Obligations.StepRunsDecodedOperation :=
  ⟨fun _ _ hscript h => step_of_fetch (State.fetch_held hscript h),
    fun _ _ _ _ hscript h => step_of_fetch (State.fetch_edge hscript h), fun _ _ => step_wait, fun _ _ => step_read⟩

/-- Settles O7: `step_edge` is the order of R150, and each shared operation on the state is its rule's effect. -/
theorem edgeFollowsPriority : Obligations.EdgeFollowsPriority := fun _ _ _ => step_edge

/-! ## The commands (R151 to R153) -/

/-- Settles O8: RESET does not look at the state, nor at the other pins of its edge. -/
theorem resetClearsEveryRegister : Obligations.ResetClearsEveryRegister :=
  ⟨fun _ => rfl, fun _ _ _ => step_edge_reset⟩

/-- Settles O10: at `phase = 0` the request is accepted. -/
theorem startLoadsOperands : Obligations.StartLoadsOperands := fun _ b k hphase =>
  State.request_idle (by simp [hphase]) b k

/-- What an edge without a request does is the same whatever levels the pins hold (R153). -/
theorem State.sequence_pins {s t : State} (h : s.sequence = .next t) (p : Pins) :
    State.sequence { s with pins := p } = .next { t with pins := p } := by
  rcases State.sequence_cases h with ⟨h0, rfl⟩ | ⟨i, hi, hphase, rfl⟩ | ⟨h17, rfl⟩
  · exact State.sequence_idle h0
  · exact State.sequence_round hi hphase
  · exact State.sequence_final h17

/-- During a transaction an edge without reset is the edge without a request, whatever `start` is (R153). -/
theorem step_edge_busy {s : State} {p : Pins} {rest : List Line} (hline : s.script = .edge p :: rest)
    (hr : p.rst = false) (hbusy : s.phase.toNat ≠ 0) :
    step s = State.sequence { s with pins := p, script := rest } := by
  rw [step_edge hline]
  simp [hr, hbusy]

/-- Settles O11: a START there is what `phase` selects, and so is an edge with any levels of the pins. -/
theorem startWhileBusyIsIgnored : Obligations.StartWhileBusyIsIgnored := by
  refine ⟨fun s b k h1 h17 => ?_, fun s p q rest h1 h17 hp hq => ?_⟩
  · obtain ⟨t, ht, -⟩ := State.Legal.sequence_next h17
    exact ⟨t, (State.request_busy (by omega) b k).trans ht, ht⟩
  · obtain ⟨t, ht, -⟩ := State.Legal.sequence_next (s := { s with script := rest }) h17
    have hedge (e : Pins) (he : e.rst = false) :
        step { s with script := .edge e :: rest } = .next { t with pins := e } :=
      (step_edge_busy (s := { s with script := .edge e :: rest }) rfl he (Nat.ne_of_gt h1)).trans
        (State.sequence_pins ht e)
    exact ⟨t, hedge p hp, hedge q hq⟩

/-! ## The micro-operations (R154, R156) -/

theorem exec_roundOp {i : Nat} (hi : i < 16) (s : State) : exec (roundOps.getD i .nop) s = s.microRound i := by
  interval_cases i <;> rfl

theorem microOps_getD_round {i : Nat} (hi : i < 16) : microOps.getD (i + 1) .nop = roundOps.getD i .nop := by
  interval_cases i <;> rfl

/-- A micro-operation is selected by `rst = 0` and its own `phase` value (R72). -/
theorem State.selects_ofNat_iff (s : State) {q : Nat} (hq : q < 18) :
    s.selects (BitVec.ofNat 5 q) = true ↔ s.phase.toNat = q ∧ s.pins.rst = false := by
  have hvalue : (BitVec.ofNat 5 q).toNat = q := BitVec.toNat_ofNat q 5 ▸ Nat.mod_eq_of_lt (by omega)
  rw [State.selects_iff, ← BitVec.toNat_inj, hvalue, and_comm]

theorem exec_roundOp_selected {s : State} {i : Nat} (hi : i < 16) (hphase : s.phase.toNat = i + 1)
    (hr : s.pins.rst = false) : exec (roundOps.getD i .nop) s = .next (s.applyRound i) := by
  rw [exec_roundOp hi, State.microRound, if_pos ((s.selects_ofNat_iff (by omega)).mpr ⟨hphase, hr⟩)]

theorem exec_final_selected {s : State} (hphase : s.phase.toNat = 17) (hr : s.pins.rst = false) :
    exec .final s = .next s.applyFinal :=
  if_pos ((s.selects_ofNat_iff (q := 17) (by decide)).mpr ⟨hphase, hr⟩)

/-- Settles O12, by the legal values of `phase`. -/
theorem nopDoesWhatPhaseSelects : Obligations.NopDoesWhatPhaseSelects := by
  refine fun s => ⟨State.sequence_idle, fun i hi hphase hr => ?_, fun h17 hr => ?_, fun hlegal => ?_⟩
  · exact (State.sequence_round hi hphase).trans (exec_roundOp_selected hi hphase hr).symm
  · exact (State.sequence_final h17).trans (exec_final_selected h17 hr).symm
  · obtain ⟨t, ht, -⟩ := State.Legal.sequence_next hlegal
    exact ⟨t, ht⟩

/-- Settles O14: the round that is selected is applied, with `SHIFT[i]` of R74 and the next `phase` value. -/
theorem roundMicroOperations : Obligations.RoundMicroOperations := by
  intro i hi s hphase hr
  have hnext : BitVec.ofNat 5 (i + 2) = s.phase + 1 := by bv_omega
  rw [hnext]
  exact exec_roundOp_selected hi hphase hr

/-- Settles O15: FINAL where it is selected. -/
theorem finalDeliversCiphertext : Obligations.FinalDeliversCiphertext := fun _ hphase =>
  exec_final_selected (by simp [hphase])

/-- Settles O16, by the micro-operation: IDLE, a round, FINAL. -/
theorem microOperationsNeedTheirPhase : Obligations.MicroOperationsNeedTheirPhase := by
  intro q hq s hnot
  have hselects : ¬s.selects (BitVec.ofNat 5 q) = true := mt (s.selects_ofNat_iff hq).mp hnot
  obtain rfl | rfl | ⟨i, hi, rfl⟩ : q = 0 ∨ q = 17 ∨ ∃ i < 16, q = i + 1 := by
    by_cases h0 : q = 0
    · exact .inl h0
    · by_cases h17 : q = 17
      · exact .inr (.inl h17)
      · exact .inr (.inr ⟨q - 1, by omega, by omega⟩)
  · exact if_neg hselects
  · exact if_neg hselects
  · rw [microOps_getD_round hi, exec_roundOp hi]
    exact if_neg hselects

/-! ## A step always answers (R186) -/

/-- No edge stops from a legal `phase`, whatever the pins are. -/
theorem State.Legal.edge_next {s : State} {p : Pins} {rest : List Line} (h : s.Legal)
    (hline : s.script = .edge p :: rest) : ∃ t, step s = .next t ∧ t.Legal := by
  rw [step_edge hline]
  dsimp only
  split
  · exact ⟨_, rfl, by simp⟩
  · split
    · exact ⟨_, rfl, by simp⟩
    · exact State.Legal.sequence_next h

/-- `WAIT` answers from every legal `phase`, since its edges either end with `done = 1` or stay in IDLE (R92). -/
theorem State.Legal.wait_next {s : State} (h : s.Legal) : ∃ t, execWait s = .next t ∧ t.Legal := by
  obtain ⟨hdone, hidle, hbusy⟩ := waitRepeatsNop s h
  cases hd : s.done with
  | true => exact ⟨s, hdone hd, h⟩
  | false =>
    by_cases h0 : s.phase.toNat = 0
    · exact ⟨_, hidle hd h0, h⟩
    · obtain ⟨t, -, ht, -, htphase, -⟩ := hbusy hd (by omega)
      exact ⟨t, ht, by simp [htphase]⟩

/-- Settles O50, by the kind of the host's next line. -/
theorem legalStatesNeverStop : Obligations.LegalStatesNeverStop := by
  intro s hlegal
  cases hscript : s.script with
  | nil =>
    rw [step_held hscript]
    exact State.Legal.edge_next (s := { s with script := [.edge s.pins] }) hlegal rfl
  | cons line rest =>
    cases line with
    | edge p => exact State.Legal.edge_next hlegal hscript
    | wait =>
      rw [step_wait hscript]
      exact State.Legal.wait_next (s := { s with script := rest }) hlegal
    | read =>
      rw [step_read hscript]
      exact ⟨_, State.ifLegal_legal hlegal, hlegal⟩

/-! ## Runs of edge lines -/

/-- A run of m + n steps whose first m complete is n steps from there. -/
theorem core_run_add {m : Nat} {s t : State} (h : Sys2Proof.core.run m s = .next t) (n : Nat) :
    Sys2Proof.core.run (m + n) s = Sys2Proof.core.run n t := by
  induction m generalizing s with
  | zero =>
    cases h
    rw [Nat.zero_add]
  | succ m ih =>
    simp only [Host.Core.run] at h
    split at h
    · next u hu =>
      rw [Nat.add_right_comm]
      exact (core_run_succ (m + n) hu).trans (ih h)
    · cases h
    · cases h

/-- A property P of the state and its position, which every edge line with allowed pins carries one position on, below a
last position, is carried along by a run of such lines. -/
theorem core_run_edges {P : Nat → State → Prop} {allowed : Pins → Prop} {last : Nat}
    (hstep : ∀ {q : Nat} {s : State} {p : Pins} {rest : List Line}, q < last → P q s → allowed p →
      s.script = .edge p :: rest → ∃ t, step s = .next t ∧ t.script = rest ∧ P (q + 1) t)
    {edges : List Pins} {rest : List Line} {q : Nat} {s : State} (hlast : q + edges.length ≤ last) (hs : P q s)
    (hallowed : ∀ e ∈ edges, allowed e) (hscript : s.script = edges.map Line.edge ++ rest) :
    ∃ t, Sys2Proof.core.run edges.length s = .next t ∧ t.script = rest ∧ P (q + edges.length) t := by
  induction edges generalizing q s with
  | nil => exact ⟨s, rfl, hscript, hs⟩
  | cons p edges ih =>
    obtain ⟨hp, hallowed⟩ := List.forall_mem_cons.mp hallowed
    rw [List.length_cons] at hlast ⊢
    obtain ⟨u, hu, hrest, hPu⟩ := hstep (by omega) hs hp hscript
    obtain ⟨t, ht, htrest, hPt⟩ := ih (by omega) hPu hallowed hrest
    exact ⟨t, (core_run_succ _ hu).trans ht, htrest, by rwa [← Nat.add_assoc, Nat.add_right_comm]⟩

/-! ## A transaction (R160 to R165) -/

/-- An accepted START at its line of the script (R152). -/
theorem step_edge_start {s : State} {p key : Block} {rest : List Line}
    (hline : s.script = .edge (Pins.request p key) :: rest) (h0 : s.phase.toNat = 0) :
    step s = .next (State.loadStart { s with pins := Pins.request p key, script := rest } p key) :=
  (step_edge_request hline).trans
    (State.request_idle (s := { s with pins := Pins.request p key, script := rest }) h0 p key)

/-- One edge of a transaction, before FINAL: a round, which leaves `OUT` (R154, R161). -/
theorem State.InTransaction.edge {p key : Block} {q : Nat} {s : State} {e : Pins} {rest : List Line}
    (hq : q < 17) (h : s.InTransaction p key q) (hr : e.rst = false) (hline : s.script = .edge e :: rest) :
    ∃ t, step s = .next t ∧ t.script = rest ∧ t.InTransaction p key (q + 1) ∧ t.OUT = s.OUT := by
  let u : State := { s with pins := e, script := rest }
  have hu : u.InTransaction p key q := h
  have ⟨h1, _, hphase, _, _, _⟩ := hu
  obtain ⟨i, rfl⟩ := Nat.exists_eq_add_of_le' h1
  have hround : u.sequence = .next (u.applyRound i) := State.sequence_round (by omega) hphase
  have hbusy : u.phase.toNat ≠ 0 := by omega
  exact ⟨_, (step_edge_busy hline hr hbusy).trans hround, rfl, hu.applyRound (by omega), rfl⟩

/-- Settles O43: the START line, and then `core_run_edges` with the registers of R161 and the old `OUT`. -/
theorem transactionKeepsRegisters : Obligations.TransactionKeepsRegisters := by
  intro s p key edges rest h0 hlen hedges hscript
  let started : State := { s with pins := Pins.request p key, script := edges.map Line.edge ++ rest }
  obtain ⟨t, hrun, hrest, ⟨-, -, hphase, hpair, hkey, hdone⟩, hOUT⟩ :=
    core_run_edges (P := fun q u => u.InTransaction p key q ∧ u.OUT = s.OUT) (allowed := fun e => e.rst = false)
      (last := 17) (q := 1) (rest := rest)
      (fun hq ⟨hu, hOUT⟩ hr hline =>
        have ⟨t, ht, hrest, htrans, hkept⟩ := hu.edge hq hr hline
        ⟨t, ht, hrest, htrans, hkept.trans hOUT⟩)
      (by omega) ⟨started.inTransaction_loadStart p key, rfl⟩ hedges rfl
  refine ⟨t, (core_run_succ _ (step_edge_start hscript h0)).trans hrun, hrest, by omega, ?_, ?_, hdone, hOUT⟩
  · rwa [Nat.add_sub_cancel_left] at hpair
  · rwa [Nat.add_sub_cancel_left] at hkey

/-- The seven registers that a transaction which sampled `(p, key)` leaves (R165). -/
def State.Delivered (p key : Block) (s : State) : Prop :=
  (s.L, s.R) = pairAt p key 16 ∧ (s.C, s.D) = cdState key 16 ∧ s.phase = 0 ∧ s.OUT = encrypt p key ∧ s.done = true

theorem State.Delivered.sameRegisters {p key : Block} {s t : State} (hs : s.Delivered p key)
    (ht : t.Delivered p key) : s.SameRegisters t := by
  obtain ⟨hpair, hkey, hphase, hOUT, hdone⟩ := hs
  obtain ⟨hpair', hkey', hphase', hOUT', hdone'⟩ := ht
  obtain ⟨hL, hR⟩ := Prod.mk.inj (hpair.trans hpair'.symm)
  obtain ⟨hC, hD⟩ := Prod.mk.inj (hkey.trans hkey'.symm)
  exact ⟨hL, hR, hC, hD, hphase.trans hphase'.symm, hOUT.trans hOUT'.symm, hdone.trans hdone'.symm⟩

/-- The 18 edges of a transaction leave the ciphertext, whatever the pins are after START: sixteen edges lead to
`phase = 17`, and the last is FINAL (R156, R165). -/
theorem core_run_transaction {s : State} {p key : Block} {edges : List Pins} {rest : List Line}
    (h0 : s.phase.toNat = 0) (hlen : edges.length = 17) (hedges : ∀ e ∈ edges, e.rst = false)
    (hscript : s.script = .edge (Pins.request p key) :: (edges.map Line.edge ++ rest)) :
    ∃ t, Sys2Proof.core.run 18 s = .next t ∧ t.script = rest ∧ t.Delivered p key := by
  obtain ⟨before, last, rfl⟩ : ∃ before last, edges = before ++ [last] :=
    (List.eq_nil_or_concat' edges).resolve_left (by rintro rfl; cases hlen)
  obtain ⟨hbefore, hlast⟩ := List.forall_mem_append.mp hedges
  have hlen : before.length = 16 := by simpa using hlen
  obtain ⟨u, hrun, hline, hphase, hpair, hkey, hdone, -⟩ :=
    transactionKeepsRegisters s p key before (.edge last :: rest) h0 hlen.le hbefore (by simpa using hscript)
  rw [hlen] at hrun hphase hpair hkey
  let v : State := { u with pins := last, script := rest }
  have hfinal : v.sequence = .next v.applyFinal := State.sequence_final hphase
  have hv : v.InTransaction p key 17 := ⟨by decide, by decide, hphase, hpair, hkey, hdone⟩
  have hstep := (step_edge_busy hline (hlast last (by simp)) (by omega)).trans hfinal
  exact ⟨_, (core_run_add hrun 1).trans (core_run_succ 0 hstep), rfl, hpair, hkey, rfl, hv.applyFinal_OUT, rfl⟩

/-- In IDLE, edges without reset and without `start` leave every register (R153, R157). -/
theorem core_run_idle {s : State} {edges : List Pins} {rest : List Line} (h0 : s.phase.toNat = 0)
    (hedges : ∀ e ∈ edges, e.rst = false ∧ e.start = false) (hscript : s.script = edges.map Line.edge ++ rest) :
    ∃ t, Sys2Proof.core.run edges.length s = .next t ∧ t.script = rest ∧ s.SameRegisters t :=
  core_run_edges (P := fun _ u => s.SameRegisters u) (q := 0)
    (fun _ hu ⟨hr, hstart⟩ hline =>
      have ⟨_, _, _, _, hphase, _, _⟩ := hu
      ⟨_, step_edge_idle hline hr hstart (hphase ▸ h0), rfl, hu⟩)
    le_rfl (.refl s) hedges hscript

/-- Settles O44: a transaction, and then idle edges. -/
theorem transactionDeliversCiphertext : Obligations.TransactionDeliversCiphertext := by
  intro s p key edges later rest h0 hlen hedges hlater hscript
  obtain ⟨u, hu, hline, -, -, hphase, hOUT, hdone⟩ := core_run_transaction h0 hlen hedges hscript
  obtain ⟨t, ht, hrest, -, -, -, -, htphase, htOUT, htdone⟩ := core_run_idle (by simp [hphase]) hlater hline
  have hidle : t.phase = 0 := htphase.symm.trans hphase
  exact ⟨t, (core_run_add hu _).trans ht, hrest, hidle, by simp [State.busy, hidle], htdone.symm.trans hdone,
    htOUT.symm.trans hOUT⟩

/-- The 18 lines of `ENCRYPT <block>, <key>` are a transaction (R92). -/
theorem core_run_encryptLines {s : State} {p key : Block} (h0 : s.phase.toNat = 0)
    (hscript : s.script = encryptLines p key) :
    ∃ t, Sys2Proof.core.run 18 s = .next t ∧ t.Delivered p key := by
  obtain ⟨t, ht, -, hdelivered⟩ := core_run_transaction (edges := List.replicate 17 ⟨false, false, 0, 0⟩)
    (rest := []) h0 rfl (by simp) hscript
  exact ⟨t, ht, hdelivered⟩

/-- Settles O47: both runs deliver, and what is delivered names every register. -/
theorem transactionsAreIndependent : Obligations.TransactionsAreIndependent := by
  intro s t p key hs0 ht0 hs ht
  obtain ⟨u, hu, hudelivered⟩ := core_run_encryptLines hs0 hs
  obtain ⟨v, hv, hvdelivered⟩ := core_run_encryptLines ht0 ht
  exact ⟨u, v, hu, hv, hudelivered.sameRegisters hvdelivered⟩

/-! ## Any registers at `phase` 1..17 (R162, R163) -/

/-- During a transaction an edge without reset moves `phase` on by one, and from 17 to 0 (R72). -/
theorem step_edge_busy_phase {s : State} {p : Pins} {rest : List Line} (hline : s.script = .edge p :: rest)
    (hr : p.rst = false) (h1 : 1 ≤ s.phase.toNat) (h17 : s.phase.toNat ≤ 17) :
    ∃ t, step s = .next t ∧ t.script = rest ∧ t.phase.toNat = (s.phase.toNat + 1) % 18 := by
  rw [step_edge_busy hline hr (by omega)]
  rcases State.Legal.cases h17 with h0 | ⟨i, hi, hround⟩ | hfinal
  · omega
  · refine ⟨_, State.sequence_round hi hround, rfl, ?_⟩
    rw [State.applyRound_phase_toNat (s := { s with pins := p, script := rest }) hi hround]
    omega
  · exact ⟨_, State.sequence_final hfinal, rfl, by simp [hfinal]⟩

/-- From `phase = q` in 1..17 the next 18 - q edges without reset lead to IDLE. -/
theorem core_run_to_idle {s : State} {edges : List Pins} {rest : List Line} (h1 : 1 ≤ s.phase.toNat)
    (h17 : s.phase.toNat ≤ 17) (hend : s.phase.toNat + edges.length = 18) (hedges : ∀ e ∈ edges, e.rst = false)
    (hscript : s.script = edges.map Line.edge ++ rest) :
    ∃ t, Sys2Proof.core.run edges.length s = .next t ∧ t.phase = 0 := by
  obtain ⟨t, hrun, -, -, hphase⟩ :=
    core_run_edges (P := fun q u => 1 ≤ q ∧ u.phase.toNat = q % 18) (allowed := fun e => e.rst = false) (last := 18)
      (fun hq ⟨h1, hphase⟩ hr hline =>
        have ⟨t, ht, hrest, htphase⟩ := step_edge_busy_phase hline hr (by omega) (by omega)
        ⟨t, ht, hrest, by omega, by omega⟩)
      hend.le ⟨h1, by omega⟩ hedges hscript
  rw [hend] at hphase
  exact ⟨t, hrun, BitVec.eq_of_toNat_eq hphase⟩

/-- Settles O46: outside IDLE the first 18 - q of the edges lead there. -/
theorem idleIsReachedWithinSeventeenEdges : Obligations.IdleIsReachedWithinSeventeenEdges := by
  intro s edges rest hlegal hlen hedges hscript
  by_cases h0 : s.phase.toNat = 0
  · exact ⟨0, by decide, s, rfl, BitVec.eq_of_toNat_eq h0⟩
  · obtain ⟨first, later, rfl, hfirst⟩ :
        ∃ first later, edges = first ++ later ∧ first.length = 18 - s.phase.toNat :=
      ⟨_, _, (List.take_append_drop _ edges).symm, List.length_take_of_le (by omega)⟩
    rw [List.map_append, List.append_assoc] at hscript
    obtain ⟨t, hrun, hphase⟩ :=
      core_run_to_idle (by omega) hlegal (by omega) (fun e he => hedges e (List.mem_append_left later he)) hscript
    exact ⟨first.length, by omega, t, hrun, hphase⟩

/-- During a transaction the registers after an edge without reset depend on the registers alone (R162). -/
theorem State.SameRegisters.edge_busy {s t : State} {p q : Pins} {rest rest' : List Line}
    (hreg : s.SameRegisters t) (h1 : 1 ≤ s.phase.toNat) (h17 : s.phase.toNat ≤ 17) (hp : p.rst = false)
    (hq : q.rst = false) (hs : s.script = .edge p :: rest) (ht : t.script = .edge q :: rest') :
    ∃ u v, step s = .next u ∧ step t = .next v ∧ u.script = rest ∧ v.script = rest' ∧ u.SameRegisters v ∧
      u.phase.toNat = (s.phase.toNat + 1) % 18 := by
  have ⟨_, _, _, _, hphase, _, _⟩ := hreg
  obtain ⟨u, hu, hurest, huphase⟩ := step_edge_busy_phase hs hp h1 h17
  have hsequence := (step_edge_busy hs hp (by omega)).symm.trans hu
  obtain ⟨v, hv, hregv⟩ := (hreg.hostSide p q rest rest').sequence hsequence
  have hvstep := (step_edge_busy ht hq (by rw [← hphase]; omega)).trans hv
  exact ⟨u, v, hu, hvstep, hurest, (State.sequence_sameHostSide hv).2.1, hregv, huphase⟩

/-- Settles O45, by induction on the edges. At `phase = q` there are at most 18 - q of them, so none is left in IDLE. -/
theorem pinsInsideTransactionDoNotMatter : Obligations.PinsInsideTransactionDoNotMatter := by
  intro s t edges edges' hreg h1 h17 hlen hend hedges hedges' hs ht
  induction edges generalizing s t edges' with
  | nil => exact ⟨s, t, rfl, rfl, hreg⟩
  | cons p edges ih =>
    obtain ⟨q, edges', rfl⟩ := List.exists_cons_of_length_eq_add_one hlen.symm
    obtain ⟨hp, hedges⟩ := List.forall_mem_cons.mp hedges
    obtain ⟨hq, hedges'⟩ := List.forall_mem_cons.mp hedges'
    obtain ⟨u, v, hu, hv, hurest, hvrest, hreguv, hphase⟩ := hreg.edge_busy h1 h17 hp hq hs ht
    simp only [List.length_cons] at hlen hend ⊢
    rw [core_run_succ _ hu, core_run_succ _ hv]
    cases edges with
    | nil => exact ⟨u, v, rfl, rfl, hreguv⟩
    | cons p' edges =>
      rw [List.length_cons] at hend
      exact ih u v edges' hreguv (by omega) (by omega) (by omega) (by rw [List.length_cons]; omega) hedges hedges'
        hurest hvrest

end Sys2Proof.Machine
